-- ==== Sys2Proof/Word.lean ====
section
/-! DEFINITION. The plain types of the block: bytes, the selector word, line levels, pin modes and the
sequencer's phases (00_scope.md R12, 10_state.md R22). -/

namespace Sys2Proof

/-- One byte of the RawSample buffer (R60). -/
abbrev Byte := BitVec 8

/-- The selector word SEL, 13 bits (R98). -/
abbrev Sel := BitVec 13

/-- A level of the line (R12): HIGH is the bit 1, LOW the bit 0. -/
inductive Level where
  | low
  | high
  deriving DecidableEq, Repr, Inhabited

/-- The mode of the pin (R12): OUTPUT, the block drives the line, is the bit 1; INPUT is the bit 0. -/
inductive PinMode where
  | input
  | output
  deriving DecidableEq, Repr, Inhabited

/-- The values of the 3-bit register `phase` (R22): the seven named ones, and the code 7, which has no
name in the spec and which only operation ILLEGAL_PHASE handles (R236). -/
inductive Phase where
  | idle
  | sModeOut
  | sHigh
  | sWarmup
  | sTrigger
  | sample
  | validate
  | illegal
  deriving DecidableEq, Repr, Inhabited

end Sys2Proof
end

