-- ==== Sys2Proof/Config.lean ====
section
/-! DEFINITION. What is fixed for one block: the constants of 00_scope.md R7, the parameters of R8 that the
spec leaves to the implementation, and the free values: the levels the outside world puts on the input
ports. -/

namespace Sys2Proof

/-- Parameter ERR_MODE (R8, D12): how a capture of fewer than 40 bits is reported (R174). -/
inductive ErrMode where
  | combined
  | distinct
  deriving DecidableEq, Repr, Inhabited

/-- The parameters of R8 that the model's rules read. N_WARMUP and N_TRIGGER are held as the last value
`timer` takes in the hold, N - 1, in the 16 bits of `timer`: exactly the range 1 to 65 536 that D5 and
U10 allow can be written. -/
structure Params where
  warmupLast  : BitVec 16
  triggerLast : BitVec 16
  pinW        : Nat
  errMode     : ErrMode
  deriving DecidableEq, Repr, Inhabited

/-- The levels on the block's input ports at one tick (R21): `clk` is the tick itself. `pinIn` is the number
on the PIN_W wires of the port; bits the port does not have are dropped where it is read (`pinPort`). -/
structure TickInputs where
  rst    : Bool
  start  : Bool
  pinIn  : Nat
  lineIn : Level
  deriving DecidableEq, Repr, Inhabited

namespace Config

/-- N_SLOTS (R7): slots 0 to 84. -/
abbrev nSlots : Nat := 85
/-- N_SKIP (R7): slots 0 to 3 carry no data. -/
abbrev nSkip : Nat := 4
/-- COUNT_CEIL (R7): the counter value that ends the sampling. -/
abbrev countCeil : Nat := 255
/-- THRESH (R7): a count above it is a data bit 1. -/
abbrev thresh : Nat := 16
/-- N_BITS (R7). -/
abbrev nBits : Nat := 40
/-- N_BYTES (R7): the size of the data space. -/
abbrev nBytes : Nat := 5

/-- PIN_W (R8, D22): OPEN, so nothing says what it is. -/
opaque pinW : Nat

/-- ERR_MODE (R8, D12): OPEN, so nothing says which it is. -/
opaque errMode : ErrMode

/-- FREE VALUES: what the host and the line environment put on the input ports at tick `n`, where the
state's script does not say (R10, R41, 93 U7): unconstrained. -/
opaque freeInput : Nat → TickInputs

/-- The parameters of the machine `State.reset` describes: N_WARMUP and N_TRIGGER at the defaults of R8,
40 000 and 18; PIN_W and ERR_MODE, for which the spec gives no default, left open. -/
def params : Params where
  warmupLast := 39999
  triggerLast := 17
  pinW := pinW
  errMode := errMode

end Config

/-- N_WARMUP (R8): the number of ticks of phase S_WARMUP. -/
def Params.nWarmup (p : Params) : Nat := p.warmupLast.toNat + 1

/-- N_TRIGGER (R8): the number of ticks of phase S_TRIGGER. -/
def Params.nTrigger (p : Params) : Nat := p.triggerLast.toNat + 1

end Sys2Proof
end

