-- ==== Sys2Proof/Machine/State.lean ====
section
/-! DEFINITION. The state of one block instance (10_state.md R20), its reset value (R39), and the reasons a
step can stop. -/

namespace Sys2Proof.Machine

/-- The result code `status`, 2 bits (R33, R96). -/
inductive Status where
  | none
  | ok
  | checksumMismatch
  | incompleteCapture
  deriving DecidableEq, Repr, Inhabited

/-- The data space: the bytes that differ from the unlisted byte, by rising address (R60). -/
abbrev Memory := List Host.Cell

/-- What an unlisted address of the data space reads as: the contents RESET and READ leave (R39, R40). -/
def unlistedByte : Byte := 0

/-- The one canonical form: addresses strictly rising, no entry equal to the unlisted byte, and no address
outside the five bytes of the data space (R60). -/
def Memory.wf : Memory → Bool
  | [] => true
  | [c] => c.2 != unlistedByte && decide (c.1 < Config.nBytes)
  | c :: d :: m => c.2 != unlistedByte && decide (c.1 < d.1) && Memory.wf (d :: m)

/-- Why the machine faults. -/
inductive Fault where
  /-- Raised by EDGE_BIT0 and EDGE_BIT1 when `bit_cursor / 8` is no address of the data space, that is when
  they are executed with `bit_cursor` at 40 or more, against their encoding (`full` = 0): "No access outside
  0 to 4 ever happens" (R65), and the block has no access fault (R190): the fault is the model's own (log
  11). SAFE: the model stops. No step raises it. -/
  | noSuchByte (address : Nat)
  deriving DecidableEq, Repr

/-- Why the machine refuses an operation. -/
inductive Refusal where
  /-- Raised by an arm of `exec` whose operation has no meaning yet. SAFE: the model stops. No arm is so. -/
  | notModelled (mnemonic : String)
  deriving DecidableEq, Repr

/-- The registers of R20, and three fields of the model's own: the parameters, which no operation writes,
and the inputs of the coming ticks. -/
structure State where
  /-- `phase` (R22). -/
  phase       : Phase
  /-- `slot_index` (R24). -/
  slotIndex   : BitVec 7
  /-- `last_level` (R25). -/
  lastLevel   : Level
  /-- `counter` (R26). -/
  counter     : BitVec 8
  /-- `bit_cursor` (R27). -/
  bitCursor   : BitVec 6
  /-- `buf[0]` to `buf[4]` (R31). -/
  buf         : Memory
  /-- `timer` (R28). -/
  timer       : BitVec 16
  /-- `pin` (R29), below 2^PIN_W. -/
  pin         : Nat
  /-- `line_oe` (R30). -/
  lineOe      : PinMode
  /-- `line_out` (R30). -/
  lineOut     : Level
  /-- `timeout` (R32). -/
  timeout     : Bool
  /-- `overrun` (R32). -/
  overrun     : Bool
  /-- `done` (R32). -/
  done        : Bool
  /-- `status` (R33). -/
  status      : Status
  /-- `humidity` (R34). -/
  humidity    : Byte
  /-- `temperature` (R34). -/
  temperature : Byte
  /-- The model's own: the parameters of R8 (log 3). -/
  params      : Params
  /-- The model's own: the input levels of the coming ticks, the first is this tick's (log 1). -/
  script      : List TickInputs
  /-- The model's own: the number of this tick; it indexes the free inputs after the script (log 1). -/
  tick        : Nat
  deriving DecidableEq, Repr

/-- The machine right after reset (R39). -/
def State.reset : State where
  phase := .idle
  slotIndex := 0
  lastLevel := .high
  counter := 0
  bitCursor := 0
  buf := []
  timer := 0
  pin := 0
  lineOe := .input
  lineOut := .high
  timeout := false
  overrun := false
  done := false
  status := .none
  humidity := 0
  temperature := 0
  params := Config.params
  script := []
  tick := 0

end Sys2Proof.Machine
end

