-- ==== Sys2Proof/Machine/Ops.lean ====
section
/-! DEFINITION. The named operations over the data space, the line and the input ports, and the parts that
several operations of the sequencer share (00_scope.md R12, 41_edge_sampler.md R143, 43_checksum_result.md
R175). -/

namespace Sys2Proof.Machine

/-! ### The data space (R60, R64) -/

/-- The byte at an address; an address not listed reads as the unlisted byte. -/
def Memory.read : Memory → Nat → Byte
  | [], _ => unlistedByte
  | c :: m, k => if c.1 = k then c.2 else Memory.read m k

/-- The memory without its entry at an address. -/
def Memory.erase (m : Memory) (k : Nat) : Memory := m.filter fun c => c.1 != k

/-- A new entry put before the first one of a larger address. -/
def Memory.insert : Memory → Nat → Byte → Memory
  | [], k, v => [(k, v)]
  | c :: m, k, v => if k < c.1 then (k, v) :: c :: m else c :: Memory.insert m k v

/-- A byte written; writing the unlisted byte removes the entry, so that the form stays canonical. -/
def Memory.write (m : Memory) (k : Nat) (v : Byte) : Memory :=
  if v = unlistedByte then m.erase k else (m.erase k).insert k v

/-- `MemRead(k, 1)` (R12): `buf[k]`, which exists for k = 0 to 4 (R65). -/
def memRead (k : Nat) (s : State) : Except Fault Byte :=
  if k < Config.nBytes then .ok (s.buf.read k) else .error (.noSuchByte k)

/-- A store to an address that exists. -/
def State.setByte (s : State) (k : Nat) (v : Byte) : State := { s with buf := s.buf.write k v }

/-- `MemWrite(k, 1, v)` (R12): `buf[k] <- v`. -/
def memWrite (k : Nat) (v : Byte) (s : State) : Except Fault State :=
  if k < Config.nBytes then .ok (s.setByte k v) else .error (.noSuchByte k)

/-! ### The input ports (R21) -/

/-- The input levels at the `j`-th tick from now: the script's while it lasts, free after it. -/
def State.inputAt (s : State) (j : Nat) : TickInputs :=
  (s.script[j]?).getD (Config.freeInput (s.tick + j))

/-- The input levels of this tick. -/
def State.inputs (s : State) : TickInputs := s.inputAt 0

/-- This tick's inputs replaced. -/
def State.withInputs (i : TickInputs) (s : State) : State :=
  { s with script := i :: s.script.tail }

/-- The end of the tick: the next tick's inputs come up (R12, R13). -/
def State.nextTick (s : State) : State :=
  { s with script := s.script.tail, tick := s.tick + 1 }

/-- The number on port `pin_in`, which has PIN_W wires (R21). -/
def pinPort (s : State) : Nat := s.inputs.pinIn % 2 ^ s.params.pinW

/-! ### The line (R12, R61) -/

/-- `LineRead()`: the level of `line_in` at this tick. -/
def lineRead (s : State) : Level := s.inputs.lineIn

/-- `LineMode(m)`: `line_oe <- m`. -/
def lineMode (m : PinMode) (s : State) : State := { s with lineOe := m }

/-- `LineWrite(v)`: `line_out <- v`. -/
def lineWrite (v : Level) (s : State) : State := { s with lineOut := v }

/-! ### Parts that operations share -/

/-- The common part of the four EDGE operations (R143): the slot ends; `l` is `lastslot`. -/
def endSlot (l : Bool) (s : State) : State :=
  { s with
    lastLevel := lineRead s
    counter := 0
    slotIndex := s.slotIndex + 1
    phase := if l then .validate else .sample }

/-- How a read ends, in success or in failure: the code goes to `status`, and the common completion of R175
follows. A failure raised is this with the failure's code and nothing more (R191, R199): control goes to
IDLE, nothing is saved, and no operation returns from it (R201). -/
def finishRead (code : Status) (s : State) : State :=
  { s with status := code, done := true, pin := 0, phase := .idle }

/-- The capture and result registers as READ and RESET both leave them (R39, R40). -/
def clearCapture (s : State) : State :=
  { s with
    buf := []
    bitCursor := 0
    slotIndex := 0
    counter := 0
    lastLevel := .high
    timer := 0
    lineOut := .high
    timeout := false
    overrun := false
    done := false
    status := .none
    humidity := 0
    temperature := 0 }

end Sys2Proof.Machine
end

