-- ==== Sys2Proof/Machine/Operands.lean ====
section
/-! DEFINITION. What the line's pulses mean: the role of a slot (30_encoding.md R91), the symbol of a count
(R92), the byte a bit goes to and how it enters it (R93), the frame (R94) and its checksum
(43_checksum_result.md R171). -/

namespace Sys2Proof.Machine

/-- The role of a slot (R91). -/
inductive SlotRole where
  /-- Slots 0 to 3: start-response pulses, discarded. -/
  | response
  /-- Even slots 4 to 82: the high phase of a data bit. -/
  | dataHigh (bit : Nat)
  /-- Odd slots 5 to 83: a low phase, not classified. -/
  | lowPhase
  /-- Slot 84: a 41st high phase, for which the frame has no bit. -/
  | extraHigh
  /-- No slot of the block (85 and above). -/
  | noSlot
  deriving DecidableEq, Repr

/-- The table of R91. -/
def slotRole (k : Nat) : SlotRole :=
  if k < 4 then .response
  else if k ≤ 83 then (if k % 2 = 0 then .dataHigh ((k - 4) / 2) else .lowPhase)
  else if k = 84 then .extraHigh
  else .noSlot

/-- The bit of a count (R92, R161): above 16 is 1. -/
def classify (c : BitVec 8) : Bool := decide (Config.thresh < c.toNat)

/-- The only address the assembler forms: `bit_cursor / 8`, that is `bit_cursor[5:3]` (R60). -/
def byteIndex (cursor : BitVec 6) : Nat := (cursor.extractLsb' 3 3).toNat

/-- `v[6:0] ‖ bit` (R93): the new bit enters at bit 0, the old bit 7 is dropped. -/
def shiftIn (v : Byte) (b : Bool) : Byte := v.extractLsb' 0 7 ++ BitVec.ofBool b

/-- One data bit packed (R93, R162, R163): the byte is read, shifted and written back, and the cursor
advances. -/
def packBit (b : Bool) (s : State) : Except Fault State :=
  match memRead (byteIndex s.bitCursor) s with
  | .error f => .error f
  | .ok v =>
    match memWrite (byteIndex s.bitCursor) (shiftIn v b) s with
    | .error f => .error f
    | .ok t => .ok { t with bitCursor := s.bitCursor + 1 }

/-- The end of a data slot that carries bit `b`: the bit is packed, then the common part of R143. -/
def edgeBit (b l : Bool) (s : State) : Host.Outcome State Fault Refusal :=
  match packBit b s with
  | .error f => .fault f
  | .ok t => .next (endSlot l t)

/-- The frame as one 40-bit number, the first received byte on the left (R62, R94). -/
def frame (m : Memory) : BitVec 40 := m.read 0 ++ m.read 1 ++ m.read 2 ++ m.read 3 ++ m.read 4

/-- The low eight bits of the exact 10-bit sum of bytes 0 to 3 (R171). -/
def checksum (m : Memory) : Byte :=
  ((m.read 0).setWidth 10 + (m.read 1).setWidth 10 + (m.read 2).setWidth 10
    + (m.read 3).setWidth 10).setWidth 8

end Sys2Proof.Machine
end

