-- ==== Sys2Proof/Machine/Assembler.lean ====
section
/-! DEFINITION. The bit assembler (42_bit_assembler.md R162 to R164). -/

namespace Sys2Proof.Machine

/-- EDGE_BIT0 (R162). -/
def execEdgeBit0 (l : Bool) (s : State) : Host.Outcome State Fault Refusal := edgeBit false l s

/-- EDGE_BIT1 (R163). -/
def execEdgeBit1 (l : Bool) (s : State) : Host.Outcome State Fault Refusal := edgeBit true l s

/-- EDGE_OVERRUN (R164): the 41st bit is dropped, with no memory access. -/
def execEdgeOverrun (l : Bool) (s : State) : Host.Outcome State Fault Refusal :=
  .next (endSlot l { s with overrun := true, bitCursor := s.bitCursor + 1 })

end Sys2Proof.Machine
end

