-- ==== Sys2Proof/Machine/ResetOps.lean ====
section
/-! DEFINITION. RESET and ILLEGAL_PHASE (70_reset_and_hazards.md R220, R236). -/

namespace Sys2Proof.Machine

/-- RESET (R220): every register takes its reset value of R39. The parameters and the inputs are no
registers of the block and stay. -/
def execReset (s : State) : Host.Outcome State Fault Refusal :=
  .next { clearCapture s with phase := .idle, pin := 0, lineOe := .input }

/-- ILLEGAL_PHASE (R236). -/
def execIllegalPhase (s : State) : Host.Outcome State Fault Refusal :=
  .next { lineMode .input s with phase := .idle }

end Sys2Proof.Machine
end

