-- ==== Sys2Proof/Machine/Sampler.lean ====
section
/-! DEFINITION. The edge-timing sampler (41_edge_sampler.md R141, R142, R144). -/

namespace Sys2Proof.Machine

/-- POLL_SAME (R141). -/
def execPollSame (s : State) : Host.Outcome State Fault Refusal :=
  .next { s with counter := s.counter + 1 }

/-- POLL_TIMEOUT (R142): the ceiling is reached and the slot loop is left. -/
def execPollTimeout (s : State) : Host.Outcome State Fault Refusal :=
  .next { s with counter := BitVec.ofNat 8 Config.countCeil, timeout := true, phase := .validate }

/-- EDGE_SKIP (R144): the common part of R143 and nothing more. -/
def execEdgeSkip (l : Bool) (s : State) : Host.Outcome State Fault Refusal := .next (endSlot l s)

end Sys2Proof.Machine
end

