-- ==== Sys2Proof/Machine/Start.lean ====
section
/-! DEFINITION. Waiting, the command and the start sequence (40_command_start_sequence.md R120 to R127). -/

namespace Sys2Proof.Machine

/-- IDLE (R120): nothing is written. -/
def execIdle (s : State) : Host.Outcome State Fault Refusal := .next s

/-- READ (R121): the command `read(pin)` is accepted; `line_oe` is not written. -/
def execRead (s : State) : Host.Outcome State Fault Refusal :=
  .next { clearCapture s with pin := pinPort s, phase := .sModeOut }

/-- START_MODE_OUT (R122). -/
def execStartModeOut (s : State) : Host.Outcome State Fault Refusal :=
  .next { lineMode .output s with phase := .sHigh }

/-- START_HIGH (R123). -/
def execStartHigh (s : State) : Host.Outcome State Fault Refusal :=
  .next { lineWrite .high s with timer := 0, phase := .sWarmup }

/-- WARMUP_WAIT (R124). -/
def execWarmupWait (s : State) : Host.Outcome State Fault Refusal :=
  .next { s with timer := s.timer + 1 }

/-- START_LOW (R125). -/
def execStartLow (s : State) : Host.Outcome State Fault Refusal :=
  .next { lineWrite .low s with timer := 0, phase := .sTrigger }

/-- TRIGGER_WAIT (R126). -/
def execTriggerWait (s : State) : Host.Outcome State Fault Refusal :=
  .next { s with timer := s.timer + 1 }

/-- START_RELEASE (R127). -/
def execStartRelease (s : State) : Host.Outcome State Fault Refusal :=
  .next { lineMode .input s with timer := 0, counter := 0, phase := .sample }

end Sys2Proof.Machine
end

