-- ==== Sys2Proof/Machine/Validator.lean ====
section
/-! DEFINITION. The checksum validator and result builder (43_checksum_result.md R172 to R175). -/

namespace Sys2Proof.Machine

/-- The code of a short capture (R174), by ERR_MODE. -/
def shortCode : ErrMode → Status
  | .combined => .checksumMismatch
  | .distinct => .incompleteCapture

/-- VALIDATE_OK (R172). -/
def execValidateOk (s : State) : Host.Outcome State Fault Refusal :=
  .next { finishRead .ok s with humidity := s.buf.read 0, temperature := s.buf.read 2 }

/-- VALIDATE_BADSUM (R173): raises ChecksumMismatch. -/
def execValidateBadsum (s : State) : Host.Outcome State Fault Refusal :=
  .next (finishRead .checksumMismatch s)

/-- VALIDATE_SHORT (R174): raises IncompleteCapture or, combined, ChecksumMismatch. -/
def execValidateShort (s : State) : Host.Outcome State Fault Refusal :=
  .next (finishRead (shortCode s.params.errMode) s)

end Sys2Proof.Machine
end

