-- ==== Sys2Proof/Syntax.lean ====
section
/-! DEFINITION. The operations of the sequencer: one constructor per row of the operation table
(30_encoding.md R100), in the table's order. The one field any row has is `l`, the bit `lastslot` (R98,
R143). -/

namespace Sys2Proof

/-- The 19 operations (R11, R100). -/
inductive Instr where
  | reset
  | idle
  | read
  | startModeOut
  | startHigh
  | warmupWait
  | startLow
  | triggerWait
  | startRelease
  | pollSame
  | pollTimeout
  | edgeSkip (lastslot : Bool)
  | edgeBit0 (lastslot : Bool)
  | edgeBit1 (lastslot : Bool)
  | edgeOverrun (lastslot : Bool)
  | validateOk
  | validateBadsum
  | validateShort
  | illegalPhase
  deriving DecidableEq, Repr

end Sys2Proof
end

