-- ==== Sys2Proof/Machine/Dispatch.lean ====
section
/-! DEFINITION. One arm per operation. -/

namespace Sys2Proof.Machine

def exec (i : Instr) (s : State) : Host.Outcome State Fault Refusal :=
  match i with
  | .reset => Sys2Proof.Machine.execReset s
  | .idle => Sys2Proof.Machine.execIdle s
  | .read => Sys2Proof.Machine.execRead s
  | .startModeOut => Sys2Proof.Machine.execStartModeOut s
  | .startHigh => Sys2Proof.Machine.execStartHigh s
  | .warmupWait => Sys2Proof.Machine.execWarmupWait s
  | .startLow => Sys2Proof.Machine.execStartLow s
  | .triggerWait => Sys2Proof.Machine.execTriggerWait s
  | .startRelease => Sys2Proof.Machine.execStartRelease s
  | .pollSame => Sys2Proof.Machine.execPollSame s
  | .pollTimeout => Sys2Proof.Machine.execPollTimeout s
  | .edgeSkip l => Sys2Proof.Machine.execEdgeSkip l s
  | .edgeBit0 l => Sys2Proof.Machine.execEdgeBit0 l s
  | .edgeBit1 l => Sys2Proof.Machine.execEdgeBit1 l s
  | .edgeOverrun l => Sys2Proof.Machine.execEdgeOverrun l s
  | .validateOk => Sys2Proof.Machine.execValidateOk s
  | .validateBadsum => Sys2Proof.Machine.execValidateBadsum s
  | .validateShort => Sys2Proof.Machine.execValidateShort s
  | .illegalPhase => Sys2Proof.Machine.execIllegalPhase s

end Sys2Proof.Machine
end

