-- ==== Sys2Proof/WellFormed.lean ====
section
/-! DEFINITION. Which operations a selector word of the running block can name. -/

namespace Sys2Proof

/-- Slot 84 is a data slot, so EDGE_SKIP never sees `lastslot` = 1 (R144, corner cases): that form is
ill-formed. Every other form is well-formed: the selector bits of some state, reachable or not, name it. -/
def Instr.wf : Instr → Bool
  | .reset => true
  | .idle => true
  | .read => true
  | .startModeOut => true
  | .startHigh => true
  | .warmupWait => true
  | .startLow => true
  | .triggerWait => true
  | .startRelease => true
  | .pollSame => true
  | .pollTimeout => true
  | .edgeSkip l => !l
  | .edgeBit0 _ => true
  | .edgeBit1 _ => true
  | .edgeOverrun _ => true
  | .validateOk => true
  | .validateBadsum => true
  | .validateShort => true
  | .illegalPhase => true

end Sys2Proof
end

