-- ==== Sys2Proof/Decode.lean ====
section
/-! DEFINITION. The selector word (30_encoding.md R98), its decoder (R100, R101), the operation table as
data, and after them the encoder. -/

namespace Sys2Proof

/-- The code of a phase in bits [11:9] of SEL (R22). -/
def Phase.code : Phase → BitVec 3
  | .idle => 0
  | .sModeOut => 1
  | .sHigh => 2
  | .sWarmup => 3
  | .sTrigger => 4
  | .sample => 5
  | .validate => 6
  | .illegal => 7

/-- The phase of a 3-bit code (R22). -/
def Phase.ofCode (b : BitVec 3) : Phase :=
  match b.toNat with
  | 0 => .idle
  | 1 => .sModeOut
  | 2 => .sHigh
  | 3 => .sWarmup
  | 4 => .sTrigger
  | 5 => .sample
  | 6 => .validate
  | _ => .illegal

/-- The fields of SEL, most significant first (R98). -/
structure Selector where
  rst      : Bool
  phase    : Phase
  start    : Bool
  tdone    : Bool
  same     : Bool
  ceil     : Bool
  data     : Bool
  full     : Bool
  wide     : Bool
  sumok    : Bool
  lastslot : Bool
  deriving DecidableEq, Repr

/-- The 13-bit word of the fields (R98). -/
def Selector.word (f : Selector) : Sel :=
  BitVec.ofBool f.rst ++ f.phase.code ++ BitVec.ofBool f.start ++ BitVec.ofBool f.tdone
    ++ BitVec.ofBool f.same ++ BitVec.ofBool f.ceil ++ BitVec.ofBool f.data
    ++ BitVec.ofBool f.full ++ BitVec.ofBool f.wide ++ BitVec.ofBool f.sumok
    ++ BitVec.ofBool f.lastslot

/-- The fields of a 13-bit word (R98). -/
def Selector.ofWord (w : Sel) : Selector where
  rst := w.getLsbD 12
  phase := Phase.ofCode (w.extractLsb' 9 3)
  start := w.getLsbD 8
  tdone := w.getLsbD 7
  same := w.getLsbD 6
  ceil := w.getLsbD 5
  data := w.getLsbD 4
  full := w.getLsbD 3
  wide := w.getLsbD 2
  sumok := w.getLsbD 1
  lastslot := w.getLsbD 0

/-- The operation the fields select, the tests in the document's order (R100, R101 (c)). -/
def Selector.operation (f : Selector) : Instr :=
  if f.rst then .reset
  else
    match f.phase with
    | .idle => if f.start then .read else .idle
    | .sModeOut => .startModeOut
    | .sHigh => .startHigh
    | .sWarmup => if f.tdone then .startLow else .warmupWait
    | .sTrigger => if f.tdone then .startRelease else .triggerWait
    | .sample =>
      if f.same then (if f.ceil then .pollTimeout else .pollSame)
      else if !f.data then .edgeSkip f.lastslot
      else if f.full then .edgeOverrun f.lastslot
      else if f.wide then .edgeBit1 f.lastslot
      else .edgeBit0 f.lastslot
    | .validate =>
      if !f.full then .validateShort
      else if f.sumok then .validateOk
      else .validateBadsum
    | .illegal => .illegalPhase

/-- The decoder of a selector word: every one of the 8192 words names an operation (R101). -/
def decodeSel (w : Sel) : Instr := (Selector.ofWord w).operation

/-- One row of the operation table (R100): `instr` with its field `l` at 0. -/
structure SelRow where
  instr   : Instr
  mask    : Sel
  pattern : Sel
  deriving DecidableEq, Repr

/-- (SEL AND mask) = match (R100). -/
def SelRow.hits (r : SelRow) (w : Sel) : Bool := w &&& r.mask == r.pattern

/-- The first nine rows of R100: reset, the command and the start sequence. -/
def selTableStart : List SelRow :=
  [⟨.reset, 0x1000, 0x1000⟩, ⟨.idle, 0x1F00, 0x0000⟩, ⟨.read, 0x1F00, 0x0100⟩,
   ⟨.startModeOut, 0x1E00, 0x0200⟩, ⟨.startHigh, 0x1E00, 0x0400⟩,
   ⟨.warmupWait, 0x1E80, 0x0600⟩, ⟨.startLow, 0x1E80, 0x0680⟩,
   ⟨.triggerWait, 0x1E80, 0x0800⟩, ⟨.startRelease, 0x1E80, 0x0880⟩]

/-- The last ten rows of R100: the sampler, the assembler, the validator, the unused phase. -/
def selTableRead : List SelRow :=
  [⟨.pollSame, 0x1E60, 0x0A40⟩, ⟨.pollTimeout, 0x1E60, 0x0A60⟩,
   ⟨.edgeSkip false, 0x1E50, 0x0A00⟩, ⟨.edgeBit0 false, 0x1E5C, 0x0A10⟩,
   ⟨.edgeBit1 false, 0x1E5C, 0x0A14⟩, ⟨.edgeOverrun false, 0x1E58, 0x0A18⟩,
   ⟨.validateOk, 0x1E0A, 0x0C0A⟩, ⟨.validateBadsum, 0x1E0A, 0x0C08⟩,
   ⟨.validateShort, 0x1E08, 0x0C00⟩, ⟨.illegalPhase, 0x1E00, 0x0E00⟩]

/-- The operation table of R100, all 19 rows. The decoder does not use it: it is the second, independent
writing of the encoding that the decoder is compared with. -/
def selTable : List SelRow := selTableStart ++ selTableRead

/-- An operation with its field `l`, where it has one, at `b`. -/
def Instr.withLast (b : Bool) : Instr → Instr
  | .edgeSkip _ => .edgeSkip b
  | .edgeBit0 _ => .edgeBit0 b
  | .edgeBit1 _ => .edgeBit1 b
  | .edgeOverrun _ => .edgeOverrun b
  | .reset => .reset
  | .idle => .idle
  | .read => .read
  | .startModeOut => .startModeOut
  | .startHigh => .startHigh
  | .warmupWait => .warmupWait
  | .startLow => .startLow
  | .triggerWait => .triggerWait
  | .startRelease => .startRelease
  | .pollSame => .pollSame
  | .pollTimeout => .pollTimeout
  | .validateOk => .validateOk
  | .validateBadsum => .validateBadsum
  | .validateShort => .validateShort
  | .illegalPhase => .illegalPhase

/-- Why bytes are no selector word. -/
inductive DecodeReject where
  /-- Fewer than the two bytes a selector word takes. -/
  | truncated
  /-- A bit above bit 12 is set: SEL has 13 bits (R98). -/
  | aboveSelector
  deriving DecidableEq, Repr

/-- A selector word written as two bytes, low byte first, and what follows it. The block itself never
stores SEL (R98: computed combinationally): the byte form is the operation table's numbering of bits,
and the order of the two bytes is the model's (log 7). -/
def decodeBytes : List Byte → Except DecodeReject (Instr × List Byte)
  | lo :: hi :: rest =>
    if hi.toNat < 32 then .ok (decodeSel ((hi ++ lo).setWidth 13), rest)
    else .error .aboveSelector
  | _ => .error .truncated

/-- The host's question: the operation of a table word, its bits numbered as the table numbers them. -/
def decodeTableWord (nbits w : Nat) : Option Instr :=
  let v := w % 2 ^ nbits
  if v < 65536 then
    match decodeBytes [BitVec.ofNat 8 v, BitVec.ofNat 8 (v / 256)] with
    | .ok (i, _) => some i
    | .error _ => none
  else none

/-- The encoder, from the match column of R100: bits the operation does not look at are 0. -/
def encode : Instr → Sel
  | .reset => 0x1000
  | .idle => 0x0000
  | .read => 0x0100
  | .startModeOut => 0x0200
  | .startHigh => 0x0400
  | .warmupWait => 0x0600
  | .startLow => 0x0680
  | .triggerWait => 0x0800
  | .startRelease => 0x0880
  | .pollSame => 0x0A40
  | .pollTimeout => 0x0A60
  | .edgeSkip l => 0x0A00 ||| (BitVec.ofBool l).setWidth 13
  | .edgeBit0 l => 0x0A10 ||| (BitVec.ofBool l).setWidth 13
  | .edgeBit1 l => 0x0A14 ||| (BitVec.ofBool l).setWidth 13
  | .edgeOverrun l => 0x0A18 ||| (BitVec.ofBool l).setWidth 13
  | .validateOk => 0x0C0A
  | .validateBadsum => 0x0C08
  | .validateShort => 0x0C00
  | .illegalPhase => 0x0E00

/-- The two bytes of the encoded operation, low byte first (log 7). -/
def encodeBytes (i : Instr) : List Byte :=
  [(encode i).setWidth 8, ((encode i).extractLsb' 8 5).setWidth 8]

end Sys2Proof
end

