-- ==== Sys2Proof/Machine/Flags.lean ====
section
/-! DEFINITION. The condition bits of 30_encoding.md R99, each defined in every phase, the selector word of
this tick (R98), and the operation it selects (R100). -/

namespace Sys2Proof.Machine

/-- `tdone` (R99): the last tick of a hold of the start sequence. -/
def condTdone (s : State) : Bool :=
  (s.phase == .sWarmup && s.timer == s.params.warmupLast)
    || (s.phase == .sTrigger && s.timer == s.params.triggerLast)

/-- `same` (R99): the sample equals `last_level`. -/
def condSame (s : State) : Bool := lineRead s == s.lastLevel

/-- `ceil` (R99): the increment of this tick would make `counter` the ceiling, 255. -/
def condCeil (s : State) : Bool := s.counter.toNat == Config.countCeil - 1

/-- `data` (R99): `slot_index` is at least 4 and even. -/
def condData (s : State) : Bool :=
  decide (Config.nSkip ≤ s.slotIndex.toNat) && !s.slotIndex.getLsbD 0

/-- `full` (R99): at least 40 bits are in. -/
def condFull (s : State) : Bool := decide (Config.nBits ≤ s.bitCursor.toNat)

/-- `wide` (R99): the count is above 16. -/
def condWide (s : State) : Bool := classify s.counter

/-- `sumok` (R99): byte 4 is the sum of bytes 0 to 3 modulo 256. -/
def condSumok (s : State) : Bool := s.buf.read 4 == checksum s.buf

/-- `lastslot` (R99): `slot_index` = 84. -/
def condLastslot (s : State) : Bool := s.slotIndex.toNat == Config.nSlots - 1

/-- The fields of SEL at this tick, from the inputs and the registers as they are before the tick (R98). -/
def selector (s : State) : Selector where
  rst := s.inputs.rst
  phase := s.phase
  start := s.inputs.start
  tdone := condTdone s
  same := condSame s
  ceil := condCeil s
  data := condData s
  full := condFull s
  wide := condWide s
  sumok := condSumok s
  lastslot := condLastslot s

/-- The selector word of this tick (R98): what stands where a processor has a fetched word. -/
def fetchSel (s : State) : Sel := (selector s).word

/-- The operation taken at this tick (R100). -/
def operationAt (s : State) : Instr := decodeSel (fetchSel s)

end Sys2Proof.Machine
end

