-- ==== Sys2Proof/Machine/Place.lean ====
section
/-! DEFINITION. How a selector word comes to be the one of the next tick: the block computes SEL from its
registers and inputs (R98), so a word is placed by giving those the values that select its operation (log
10). Only what the word's operation looks at is set. -/

namespace Sys2Proof.Machine

/-- A value of `timer` with which `tdone` has the wanted value, given the last value of the hold. -/
def timerFor (tdone : Bool) (last timer : BitVec 16) : BitVec 16 :=
  if tdone then last else if timer = last then last + 1 else timer

/-- A level of the line with which `same` has the wanted value. -/
def lineFor (same : Bool) : Level → Level
  | .high => if same then .high else .low
  | .low => if same then .low else .high

/-- A count with which `ceil`, where the operation looks at it, and `wide` have the wanted values. -/
def counterFor (f : Selector) : BitVec 8 :=
  if f.same && f.ceil then 254 else if f.wide then 17 else 0

/-- A slot with which `data` and, in a data slot, `lastslot` have the wanted values. -/
def slotFor (f : Selector) : BitVec 7 :=
  if f.data then (if f.lastslot then 84 else 4) else 0

/-- A cursor with which `full` has the wanted value. -/
def cursorFor (full : Bool) : BitVec 6 := if full then 40 else 0

/-- A buffer with which `sumok` has the wanted value. -/
def bufFor (sumok : Bool) : Memory := if sumok then [] else [(4, 1)]

/-- The state whose selector word names the operation of `w`. The inputs that enter SEL are all set: a word
with a free bit in it is no word. -/
def placeWord (w : Sel) (s : State) : State :=
  let f := Selector.ofWord w
  let t := s.withInputs
    { rst := f.rst, start := f.start, pinIn := s.inputs.pinIn, lineIn := lineFor f.same s.lastLevel }
  if f.rst then t
  else
    match f.phase with
    | .sWarmup =>
      { t with phase := .sWarmup, timer := timerFor f.tdone s.params.warmupLast s.timer }
    | .sTrigger =>
      { t with phase := .sTrigger, timer := timerFor f.tdone s.params.triggerLast s.timer }
    | .sample =>
      { t with
        phase := .sample
        counter := counterFor f
        slotIndex := slotFor f
        bitCursor := cursorFor f.full }
    | .validate =>
      { t with phase := .validate, bitCursor := cursorFor f.full, buf := bufFor f.sumok }
    | p => { t with phase := p }

end Sys2Proof.Machine
end

