-- ==== Sys2Proof/Machine/Step.lean ====
section
/-! DEFINITION. One tick of the sequencer (00_scope.md R11, R13). -/

namespace Sys2Proof.Machine

/-- One tick: the operation the selector word names is taken, then the next tick's inputs come up. -/
def step (s : State) : Host.Outcome State Fault Refusal :=
  match exec (operationAt s) s with
  | .next t => .next t.nextTick
  | .fault r => .fault r
  | .refused r => .refused r

/-- `s` about to take the operation of the table word `w` (log 10). -/
def State.withFetchWord (s : State) (nbits w : Nat) : State :=
  placeWord (BitVec.ofNat 13 (w % 2 ^ nbits)) s

end Sys2Proof.Machine
end

