-- ==== Sys2Proof/Machine/Script.lean ====
section
/-! DEFINITION. The written forms of 30_encoding.md R105 and R106: `read(p)` and the sample script, as inputs
of the coming ticks. -/

namespace Sys2Proof.Machine

/-- A tick with no command and no reset, at which the line has a level. -/
def sampleTick (l : Level) : TickInputs := { rst := false, start := false, pinIn := 0, lineIn := l }

/-- The tick of the command `read(p)` (R97). -/
def commandTick (p : Nat) : TickInputs := { rst := false, start := true, pinIn := p, lineIn := .high }

/-- The samples of a script written as runs (R106): `H`n is `(.high, n)`, `L`n is `(.low, n)`. -/
def expandRuns : List (Level × Nat) → List Level
  | [] => []
  | r :: rs => List.replicate r.2 r.1 ++ expandRuns rs

/-- `read(p)` with a sample script (R106, R107): the command, the ticks of the start sequence, at which the
line is not looked at, and then one sample a tick. -/
def readScript (q : Params) (p : Nat) (rs : List (Level × Nat)) : List TickInputs :=
  commandTick p :: List.replicate (q.nWarmup + q.nTrigger + 2) (sampleTick .high)
    ++ (expandRuns rs).map sampleTick

end Sys2Proof.Machine
end

