-- ==== Sys2Proof/Machine/Ports.lean ====
section
/-! DEFINITION. What the outside sees of a state: the output ports (10_state.md R21), the word view of the
registers (R35), and the result of a read (30_encoding.md R95). Nothing here is read back by an operation
(R21, R32). -/

namespace Sys2Proof.Machine

/-- The bit of a level (R12). -/
def levelBit : Level → BitVec 1
  | .low => 0
  | .high => 1

/-- The bit of a pin mode (R12). -/
def modeBit : PinMode → BitVec 1
  | .input => 0
  | .output => 1

/-- The code of a status (R33, R96). -/
def statusCode : Status → BitVec 2
  | .none => 0
  | .ok => 1
  | .checksumMismatch => 2
  | .incompleteCapture => 3

/-- `busy` (R21, R32): the phase is not IDLE. -/
def busy (s : State) : Bool := s.phase != .idle

/-- The output ports of R21. -/
structure Outputs where
  lineOe      : BitVec 1
  lineOut     : BitVec 1
  pinSel      : Nat
  busy        : Bool
  done        : Bool
  status      : BitVec 2
  humidity    : BitVec 8
  temperature : BitVec 8
  dbgBitCount : BitVec 6
  dbgSlot     : BitVec 7
  dbgTimeout  : Bool
  dbgOverrun  : Bool
  dbgRaw      : BitVec 40
  deriving DecidableEq, Repr

/-- The levels on the output ports (R21). -/
def outputs (s : State) : Outputs where
  lineOe := modeBit s.lineOe
  lineOut := levelBit s.lineOut
  pinSel := s.pin
  busy := busy s
  done := s.done
  status := statusCode s.status
  humidity := s.humidity
  temperature := s.temperature
  dbgBitCount := s.bitCursor
  dbgSlot := s.slotIndex
  dbgTimeout := s.timeout
  dbgOverrun := s.overrun
  dbgRaw := frame s.buf

/-- The level the block drives on the line, none while the pin is in input mode (R30, R207). -/
def lineDriven (s : State) : Option Level :=
  match s.lineOe with
  | .output => some s.lineOut
  | .input => none

/-- Word 1 of R35, STATUS, bits [18:0]. -/
def statusWord (s : State) : BitVec 19 :=
  s.slotIndex ++ s.bitCursor ++ BitVec.ofBool s.overrun ++ BitVec.ofBool s.timeout
    ++ statusCode s.status ++ BitVec.ofBool s.done ++ BitVec.ofBool (busy s)

/-- Word 2 of R35, RESULT. -/
def resultWord (s : State) : BitVec 16 := s.temperature ++ s.humidity

/-- Word 3 of R35, RAW. -/
def rawWord (s : State) : BitVec 40 := frame s.buf

/-- Word 0 of R35, CMD: a write puts bit 0 on `start` and the bits above it on `pin_in` for one tick; it has
no storage. -/
def cmdWrite (v : Nat) (i : TickInputs) : TickInputs :=
  { i with start := v % 2 == 1, pinIn := v / 2 }

/-- The failure kinds (R190). -/
inductive ErrorKind where
  | checksumMismatch
  | incompleteCapture
  deriving DecidableEq, Repr

/-- The result of one read (R95, R105): a failure carries no fields (R34, U6). -/
inductive ReadResult where
  | ok (humidity temperature : Byte)
  | err (kind : ErrorKind)
  deriving DecidableEq, Repr

/-- The result on the ports: none before a read has ended (R33, R95). -/
def result (s : State) : Option ReadResult :=
  match s.status with
  | .none => none
  | .ok => some (.ok s.humidity s.temperature)
  | .checksumMismatch => some (.err .checksumMismatch)
  | .incompleteCapture => some (.err .incompleteCapture)

end Sys2Proof.Machine
end

