-- ==== Sys2Proof/Machine/Runs.lean ====
section
/-! DEFINITION. A read as a function of the sample stream (41_edge_sampler.md R148, 42_bit_assembler.md R166,
43_checksum_result.md R178): the second, independent description that claims compare the sequencer with.
The step does not use it. -/

namespace Sys2Proof.Machine

/-- The level of run `k` (R148): even runs are HIGH, odd runs LOW. -/
def levelOfRun (k : Nat) : Level := if k % 2 = 0 then .high else .low

/-- The number of consecutive samples of a level from sample `q` on, counted no further than `cap`. -/
def runLength (σ : Nat → Level) (l : Level) : (q cap : Nat) → Nat
  | _, 0 => 0
  | q, cap + 1 => if σ q = l then runLength σ l (q + 1) cap + 1 else 0

/-- The sample run `k` begins at, as long as no run before it reaches 256 samples. -/
def runStart (σ : Nat → Level) : Nat → Nat
  | 0 => 0
  | k + 1 => runStart σ k + runLength σ (levelOfRun k) (runStart σ k) 256

/-- n_k of R148, counted no further than 256. -/
def runOf (σ : Nat → Level) (k : Nat) : Nat := runLength σ (levelOfRun k) (runStart σ k) 256

/-- Slot 0 times out when n_0 ≥ 255, slot k ≥ 1 when n_k ≥ 256 (R148). -/
def slotTimesOut (σ : Nat → Level) (k : Nat) : Bool :=
  if k = 0 then decide (255 ≤ runOf σ 0) else decide (256 ≤ runOf σ k)

/-- T of R178: the first slot that times out, 85 if none does. -/
def firstTimeout (σ : Nat → Level) : Nat :=
  ((List.range Config.nSlots).find? (slotTimesOut σ)).getD Config.nSlots

/-- The number of data bits when `k` slots have ended with an edge (R166). -/
def bitsBefore (k : Nat) : Nat := if k ≤ 4 then 0 else (k - 3) / 2

/-- B of R178: the number of stored bits. -/
def storedBits (t : Nat) : Nat := min Config.nBits (bitsBefore t)

/-- Data bit `i` of R178: its high run has at least 18 samples. -/
def dataBit (σ : Nat → Level) (i : Nat) : Bool := decide (18 ≤ runOf σ (4 + 2 * i))

/-- Bits read as an unsigned number, the first most significant. -/
def bitsValue : List Bool → Nat
  | [] => 0
  | b :: bs => b.toNat * 2 ^ bs.length + bitsValue bs

/-- Byte `k` of the frame of a stream: its bits 8k to 8k + 7, the first most significant (R178). -/
def frameByte (σ : Nat → Level) (k : Nat) : Byte :=
  BitVec.ofNat 8 (bitsValue ((List.range 8).map fun j => dataBit σ (8 * k + j)))

/-- The kind reported for fewer than 40 bits (R174, R178). -/
def shortKind : ErrMode → ErrorKind
  | .combined => .checksumMismatch
  | .distinct => .incompleteCapture

/-- The result of a read whose samples are `σ` (R178). -/
def readFunction (e : ErrMode) (σ : Nat → Level) : ReadResult :=
  if storedBits (firstTimeout σ) < Config.nBits then .err (shortKind e)
  else if (frameByte σ 4).toNat
      = ((frameByte σ 0).toNat + (frameByte σ 1).toNat + (frameByte σ 2).toNat + (frameByte σ 3).toNat) % 256
    then .ok (frameByte σ 0) (frameByte σ 2)
  else .err .checksumMismatch

/-- The data bits captured so far, in order of arrival (R63, R165): a complete byte holds its bit `i` at
7 - i % 8, a byte with only m bits at m - 1 - i % 8. -/
def capturedBits (m : Memory) (cursor : Nat) : List Bool :=
  (List.range (min Config.nBits cursor)).map fun i =>
    (m.read (i / 8)).getLsbD (min 8 (cursor - 8 * (i / 8)) - 1 - i % 8)

end Sys2Proof.Machine
end

