-- ==== Sys2Proof/Safety.lean ====
section
/-! DEFINITION. The invariant of the block: what holds at reset and is kept by every tick (10_state.md R42
and the derived facts of R25, R27, R33, 42_bit_assembler.md R162 (b), R165, R166, 60_exceptions.md R200). -/

namespace Sys2Proof.Machine

/-- The four operations that end a slot (R143). -/
def isEdge : Instr → Bool
  | .edgeSkip _ => true
  | .edgeBit0 _ => true
  | .edgeBit1 _ => true
  | .edgeOverrun _ => true
  | .reset => false
  | .idle => false
  | .read => false
  | .startModeOut => false
  | .startHigh => false
  | .warmupWait => false
  | .startLow => false
  | .triggerWait => false
  | .startRelease => false
  | .pollSame => false
  | .pollTimeout => false
  | .validateOk => false
  | .validateBadsum => false
  | .validateShort => false
  | .illegalPhase => false

/-- The two operations that store a data bit (R64). -/
def storesBit : Instr → Bool
  | .edgeBit0 _ => true
  | .edgeBit1 _ => true
  | .edgeSkip _ => false
  | .edgeOverrun _ => false
  | .reset => false
  | .idle => false
  | .read => false
  | .startModeOut => false
  | .startHigh => false
  | .warmupWait => false
  | .startLow => false
  | .triggerWait => false
  | .startRelease => false
  | .pollSame => false
  | .pollTimeout => false
  | .validateOk => false
  | .validateBadsum => false
  | .validateShort => false
  | .illegalPhase => false

/-- The three operations that end a read (R175). -/
def endsRead : Instr → Bool
  | .validateOk => true
  | .validateBadsum => true
  | .validateShort => true
  | .edgeSkip _ => false
  | .edgeBit0 _ => false
  | .edgeBit1 _ => false
  | .edgeOverrun _ => false
  | .reset => false
  | .idle => false
  | .read => false
  | .startModeOut => false
  | .startHigh => false
  | .warmupWait => false
  | .startLow => false
  | .triggerWait => false
  | .startRelease => false
  | .pollSame => false
  | .pollTimeout => false
  | .illegalPhase => false

/-- The exact sum of bytes 0 to 3 (R171). -/
def byteSum (m : Memory) : Nat :=
  (m.read 0).toNat + (m.read 1).toNat + (m.read 2).toNat + (m.read 3).toNat

/-- The most ticks a read takes, from READ to its VALIDATE operation (R177, R234). -/
def readTicks (p : Params) : Nat := p.nWarmup + p.nTrigger + 4 + 21675

/-- The phases in which the line is driven (R42). -/
def drivesLine : Phase → Bool
  | .sHigh => true
  | .sWarmup => true
  | .sTrigger => true
  | .idle => false
  | .sModeOut => false
  | .sample => false
  | .validate => false
  | .illegal => false

/-- The level `line_out` holds in a phase of a read (R30): high until START_LOW, low after it. -/
def lineOutIn : Phase → Option Level
  | .sModeOut => some .high
  | .sHigh => some .high
  | .sWarmup => some .high
  | .sTrigger => some .low
  | .sample => some .low
  | .validate => some .low
  | .idle => none
  | .illegal => none

/-- The states a run from reset can be in, as far as the spec describes them. -/
structure Inv (s : State) : Prop where
  /-- The data space is in its canonical form. -/
  bufWf : s.buf.wf = true
  /-- `pin` has PIN_W bits (R29). -/
  pinFits : s.pin < 2 ^ s.params.pinW
  /-- The block retains no pin between reads (R29). -/
  pinIdle : s.phase = .idle → s.pin = 0
  /-- The code 7 is not reached (R102). -/
  phaseLegal : s.phase ≠ .illegal
  /-- `slot_index` is at most 85 (R24). -/
  slotLe : s.slotIndex.toNat ≤ 85
  /-- `last_level` is HIGH exactly in even slots (R25). -/
  levelParity : s.lastLevel = levelOfRun s.slotIndex.toNat
  /-- The cursor is a function of the slot (R166). -/
  cursorOfSlot : s.bitCursor.toNat = bitsBefore s.slotIndex.toNat
  /-- The counter is at the ceiling exactly after a timeout (R26). -/
  timeoutCount : s.timeout = true ↔ s.counter.toNat = 255
  /-- A timeout leaves the slot it happened in (R24). -/
  timeoutSlot : s.timeout = true → s.slotIndex.toNat ≤ 84
  /-- The 41st bit has come exactly when slot 84 has ended (R42). -/
  overrunSlot : s.overrun = true ↔ s.slotIndex.toNat = 85
  /-- In phase SAMPLE a slot 0 to 84 is being waited for, and no ceiling was reached (R42). -/
  sampling : s.phase = .sample → s.slotIndex.toNat ≤ 84 ∧ s.timeout = false
  /-- Before phase SAMPLE nothing has been counted (R40). -/
  starting : s.phase = .sModeOut ∨ s.phase = .sHigh ∨ s.phase = .sWarmup ∨ s.phase = .sTrigger →
    s.slotIndex = 0 ∧ s.counter = 0
  /-- Phase VALIDATE is entered by one of the two exits (R145). -/
  validating : s.phase = .validate → s.timeout = true ∨ s.overrun = true
  /-- The line is driven exactly in three phases (R42). -/
  drive : s.lineOe = .output ↔ drivesLine s.phase = true
  /-- What `line_out` holds during a read (R30). -/
  outLevel : ∀ l, lineOutIn s.phase = some l → s.lineOut = l
  /-- `timer` runs in the two holds only (R28), and no further than their last value (R176). -/
  timerIdle : s.phase ≠ .sWarmup → s.phase ≠ .sTrigger → s.timer = 0
  timerWarmup : s.phase = .sWarmup → s.timer.toNat ≤ s.params.warmupLast.toNat
  timerTrigger : s.phase = .sTrigger → s.timer.toNat ≤ s.params.triggerLast.toNat
  /-- `done` says that there is a result (R33), and a result is there only in phase IDLE (R42). -/
  doneStatus : s.done = true ↔ s.status ≠ .none
  doneIdle : s.done = true → s.phase = .idle
  /-- A read that has ended left the sampler by one of its two exits (R145). -/
  doneExit : s.done = true → s.timeout = true ∨ s.overrun = true
  /-- An accepted read had 40 bits and a matching checksum, and its fields are bytes 0 and 2 (R172, R200). -/
  okSound : s.status = .ok → 40 ≤ s.bitCursor.toNat ∧ s.buf.read 4 = checksum s.buf ∧
    s.humidity = s.buf.read 0 ∧ s.temperature = s.buf.read 2
  /-- A mismatch reported is one, or a short capture in the combined mode (R192). -/
  mismatchSound : s.status = .checksumMismatch →
    (40 ≤ s.bitCursor.toNat ∧ s.buf.read 4 ≠ checksum s.buf) ∨
    (s.bitCursor.toNat < 40 ∧ s.params.errMode = .combined)
  /-- An incomplete capture reported is one (R193). -/
  shortSound : s.status = .incompleteCapture →
    s.bitCursor.toNat < 40 ∧ s.params.errMode = .distinct
  /-- Without an accepted read the result fields are 0 (R34). -/
  fieldsZero : s.status ≠ .ok → s.humidity = 0 ∧ s.temperature = 0
  /-- A byte that has received m bits holds them right-aligned, zeros above (R63, R165). -/
  rightAligned : ∀ k, k < 5 → (s.buf.read k).toNat < 2 ^ min 8 (s.bitCursor.toNat - 8 * k)

end Sys2Proof.Machine
end

