-- ==== Sys2Proof/Certificates/Slice0/Obligations.lean ====
section
/-! DEFINITION. The statements for the provers. Each docstring names the rule of spec/ a statement formalises,
or the spec's own marked decision or inference it rests on. -/

open Sys2Proof Sys2Proof.Machine

/-! ### The selector word and its decoder -/

/-- Words of the decoding vectors of 95_test_vectors.md part 2.1, read by the decoder, and words that are no
selector word. The layout of SEL is the spec's decision D4; the two-byte form is the model's (log 7). -/
def Obligations.DecodeSanityWords : Prop :=
  decodeTableWord 16 0x1FFF = some .reset ∧
  decodeTableWord 16 0x00FF = some .idle ∧
  decodeTableWord 16 0x0100 = some .read ∧
  decodeTableWord 16 0x0300 = some .startModeOut ∧
  decodeTableWord 16 0x0700 = some .warmupWait ∧
  decodeTableWord 16 0x0880 = some .startRelease ∧
  decodeTableWord 16 0x0A54 = some .pollSame ∧
  decodeTableWord 16 0x0A74 = some .pollTimeout ∧
  decodeTableWord 16 0x0A04 = some (.edgeSkip false) ∧
  decodeTableWord 16 0x0A34 = some (.edgeBit1 false) ∧
  decodeTableWord 16 0x0A1D = some (.edgeOverrun true) ∧
  decodeTableWord 16 0x0D0A = some .validateOk ∧
  decodeTableWord 16 0x0C02 = some .validateShort ∧
  decodeTableWord 16 0x0E00 = some .illegalPhase ∧
  decodeTableWord 16 0x2000 = none ∧
  decodeBytes [0x00] = .error .truncated

/-- Decode and encode agree, for every operation and both values of its field; the word a decoded operation
encodes to lies in the same rows of the operation table as the word it was decoded from, so no bit a row
fixes is dropped; and bytes with a bit above bit 12 are refused by name (log 7). -/
def Obligations.DecodeEncodeAgree : Prop :=
  (∀ (i : Instr) (rest : List Byte), decodeBytes (encodeBytes i ++ rest) = .ok (i, rest)) ∧
  (∀ w : Sel, ∀ r ∈ selTable, r.hits (encode (decodeSel w)) = r.hits w) ∧
  (∀ (lo hi : Byte) (rest : List Byte), 32 ≤ hi.toNat →
    decodeBytes (lo :: hi :: rest) = .error .aboveSelector)

/-- Every one of the 8192 words matches exactly one row of the operation table, and the decoder answers that
row's operation with its field `l` from bit 0 (30_encoding.md section 2; the table is the spec's decision
D4). -/
def Obligations.TableSelectsOneOperation : Prop :=
  ∀ w : Sel, (selTable.filter fun r => r.hits w).map (fun r => r.instr.withLast (w.getLsbD 0))
    = [decodeSel w]

/-- R99: each condition bit, in every phase; and an operation looks only at the bits its pattern fixes or
names: two words of one row are one operation, for the four EDGE rows if they agree in the bit `l` names. -/
def Obligations.ConditionBits : Prop :=
  (∀ s : State,
    ((selector s).tdone = true ↔
      (s.phase = .sWarmup ∧ s.timer.toNat = s.params.nWarmup - 1) ∨
      (s.phase = .sTrigger ∧ s.timer.toNat = s.params.nTrigger - 1)) ∧
    ((selector s).same = true ↔ s.inputs.lineIn = s.lastLevel) ∧
    ((selector s).ceil = true ↔ s.counter.toNat = 254) ∧
    ((selector s).data = true ↔ 4 ≤ s.slotIndex.toNat ∧ s.slotIndex.getLsbD 0 = false) ∧
    ((selector s).full = true ↔ 40 ≤ s.bitCursor.toNat) ∧
    ((selector s).wide = true ↔ 16 < s.counter.toNat) ∧
    ((selector s).sumok = true ↔ (s.buf.read 4).toNat = byteSum s.buf % 256) ∧
    ((selector s).lastslot = true ↔ s.slotIndex.toNat = 84)) ∧
  (∀ r ∈ selTable, ∀ w w' : Sel, r.hits w = true → r.hits w' = true →
    (isEdge r.instr = true → w.getLsbD 0 = w'.getLsbD 0) → decodeSel w = decodeSel w')

/-- The selector word of a tick, bit by bit, with the phase codes (30_encoding.md section 2 and 10_state.md
section 2; the layout and the codes are the spec's decision D4). -/
def Obligations.SelectorWordBits : Prop :=
  ∀ s : State,
    (fetchSel s).getLsbD 12 = s.inputs.rst ∧
    ((fetchSel s).extractLsb' 9 3).toNat = (match s.phase with
      | .idle => 0
      | .sModeOut => 1
      | .sHigh => 2
      | .sWarmup => 3
      | .sTrigger => 4
      | .sample => 5
      | .validate => 6
      | .illegal => 7) ∧
    (fetchSel s).getLsbD 8 = s.inputs.start ∧
    (fetchSel s).getLsbD 7 = condTdone s ∧
    (fetchSel s).getLsbD 6 = condSame s ∧
    (fetchSel s).getLsbD 5 = condCeil s ∧
    (fetchSel s).getLsbD 4 = condData s ∧
    (fetchSel s).getLsbD 3 = condFull s ∧
    (fetchSel s).getLsbD 2 = condWide s ∧
    (fetchSel s).getLsbD 1 = condSumok s ∧
    (fetchSel s).getLsbD 0 = condLastslot s

/-- A tick runs the operation its selector word decodes to, and then the next tick's inputs come up. -/
def Obligations.StepRunsOperation : Prop :=
  ∀ (s : State) (i : Instr), decodeSel (fetchSel s) = i →
    step s = (match exec i s with
      | .next t => .next t.nextTick
      | .fault r => .fault r
      | .refused r => .refused r)

/-- The operation of a tick is always well-formed: EDGE_SKIP never sees `lastslot` (41_edge_sampler.md section
1). -/
def Obligations.OperationsWellFormed : Prop :=
  ∀ s : State, (operationAt s).wf = true

/-! ### Reset, the command and the start sequence -/

/-- The reset state, register by register (10_state.md section 7; the values are the spec's decision D3). The
parameters and the inputs of the model's own fields are not named. -/
def Obligations.ResetValues : Prop :=
  State.reset.phase = .idle ∧ State.reset.slotIndex = 0 ∧ State.reset.lastLevel = .high ∧
  State.reset.counter = 0 ∧ State.reset.bitCursor = 0 ∧ (∀ k, State.reset.buf.read k = 0) ∧
  State.reset.timer = 0 ∧ State.reset.pin = 0 ∧ State.reset.lineOe = .input ∧
  State.reset.lineOut = .high ∧ State.reset.timeout = false ∧ State.reset.overrun = false ∧
  State.reset.done = false ∧ State.reset.status = .none ∧ State.reset.humidity = 0 ∧
  State.reset.temperature = 0

/-- RESET is taken exactly at `rst` = 1, whatever else holds, and leaves every register at its reset value
(70_reset_and_hazards.md section 1; the spec's decisions D3, D29). -/
def Obligations.ResetOperation : Prop :=
  (∀ s : State, operationAt s = .reset ↔ s.inputs.rst = true) ∧
  (∀ s : State, exec .reset s =
    .next { State.reset with params := s.params, script := s.script, tick := s.tick })

/-- R120: IDLE is taken exactly in phase IDLE without a command, and writes nothing; the block can stay there
for any number of ticks. -/
def Obligations.IdleOperation : Prop :=
  (∀ s : State, operationAt s = .idle ↔
    s.inputs.rst = false ∧ s.phase = .idle ∧ s.inputs.start = false) ∧
  (∀ s : State, exec .idle s = .next s) ∧
  (∀ (s : State) (n : Nat), s.phase = .idle →
    (∀ j < n, (s.inputAt j).rst = false ∧ (s.inputAt j).start = false) →
    Host.Core.run core n s = .next { s with script := s.script.drop n, tick := s.tick + n })

/-- READ is taken exactly in phase IDLE with a command; it takes the pin, initialises every capture and result
register and leaves `line_oe` alone (40_command_start_sequence.md section 1; the spec's decisions D6, D7). -/
def Obligations.ReadOperation : Prop :=
  (∀ s : State, operationAt s = .read ↔
    s.inputs.rst = false ∧ s.phase = .idle ∧ s.inputs.start = true) ∧
  (∀ s : State, ∃ t, exec .read s = .next t ∧
    t.pin = s.inputs.pinIn % 2 ^ s.params.pinW ∧ (∀ k, t.buf.read k = 0) ∧ t.bitCursor = 0 ∧
    t.slotIndex = 0 ∧ t.counter = 0 ∧ t.lastLevel = .high ∧ t.timer = 0 ∧ t.lineOut = .high ∧
    t.timeout = false ∧ t.overrun = false ∧ t.done = false ∧ t.status = .none ∧ t.humidity = 0 ∧
    t.temperature = 0 ∧ t.phase = .sModeOut ∧ t.lineOe = s.lineOe ∧ t.params = s.params ∧
    t.script = s.script ∧ t.tick = s.tick)

/-- START_MODE_OUT turns the driver on, with the line held HIGH by READ's preload in every state of a run
(40_command_start_sequence.md section 2; the spec's decision D6). -/
def Obligations.StartModeOutOperation : Prop :=
  (∀ s : State, operationAt s = .startModeOut ↔ s.inputs.rst = false ∧ s.phase = .sModeOut) ∧
  (∀ s : State, exec .startModeOut s = .next { s with lineOe := .output, phase := .sHigh }) ∧
  (∀ s t : State, Inv s → s.phase = .sModeOut → exec .startModeOut s = .next t →
    lineDriven s = none ∧ lineDriven t = some .high)

/-- R123: START_HIGH writes HIGH, clears the timer and enters the warm-up; the register already holds HIGH in
every state of a run. -/
def Obligations.StartHighOperation : Prop :=
  (∀ s : State, operationAt s = .startHigh ↔ s.inputs.rst = false ∧ s.phase = .sHigh) ∧
  (∀ s : State, exec .startHigh s = .next { s with lineOut := .high, timer := 0, phase := .sWarmup }) ∧
  (∀ s : State, Inv s → s.phase = .sHigh → s.lineOut = .high)

/-- The warm-up: WARMUP_WAIT while `timer` is not N_WARMUP - 1, and START_LOW when it is
(40_command_start_sequence.md section 2; the spec's decision D5). -/
def Obligations.WarmupHold : Prop :=
  (∀ s : State, (operationAt s = .warmupWait ↔
      s.inputs.rst = false ∧ s.phase = .sWarmup ∧ s.timer.toNat ≠ s.params.nWarmup - 1) ∧
    (operationAt s = .startLow ↔
      s.inputs.rst = false ∧ s.phase = .sWarmup ∧ s.timer.toNat = s.params.nWarmup - 1)) ∧
  (∀ s : State, exec .warmupWait s = .next { s with timer := s.timer + 1 } ∧
    (s.timer.toNat < s.params.nWarmup - 1 → (s.timer + 1).toNat = s.timer.toNat + 1)) ∧
  (∀ s : State, exec .startLow s = .next { s with lineOut := .low, timer := 0, phase := .sTrigger })

/-- The trigger pulse: TRIGGER_WAIT while `timer` is not N_TRIGGER - 1, and START_RELEASE when it is
(40_command_start_sequence.md section 2; the spec's decisions D5, D10). -/
def Obligations.TriggerHold : Prop :=
  (∀ s : State, (operationAt s = .triggerWait ↔
      s.inputs.rst = false ∧ s.phase = .sTrigger ∧ s.timer.toNat ≠ s.params.nTrigger - 1) ∧
    (operationAt s = .startRelease ↔
      s.inputs.rst = false ∧ s.phase = .sTrigger ∧ s.timer.toNat = s.params.nTrigger - 1)) ∧
  (∀ s : State, exec .triggerWait s = .next { s with timer := s.timer + 1 } ∧
    (s.timer.toNat < s.params.nTrigger - 1 → (s.timer + 1).toNat = s.timer.toNat + 1)) ∧
  (∀ s : State, exec .startRelease s =
    .next { s with lineOe := .input, timer := 0, counter := 0, phase := .sample })

/-- The trace of the start sequence, tick by tick: the phase, the timer and the level the block drives after
each of its first N_WARMUP + N_TRIGGER + 3 ticks, for every state of phase IDLE in which a command comes and
no reset follows (40_command_start_sequence.md section 3, which the spec derives from its own rules). -/
def Obligations.StartSequenceTrace : Prop :=
  ∀ s : State, Inv s → s.phase = .idle → s.inputs.start = true →
    (∀ j < s.params.nWarmup + s.params.nTrigger + 3, (s.inputAt j).rst = false) →
    ∀ n, 0 < n → n ≤ s.params.nWarmup + s.params.nTrigger + 3 →
    ∃ t, Host.Core.run core n s = .next t ∧
      t.pin = s.inputs.pinIn % 2 ^ s.params.pinW ∧
      (if n = 1 then t.phase = .sModeOut ∧ lineDriven t = none
       else if n = 2 then t.phase = .sHigh ∧ lineDriven t = some .high
       else if n ≤ s.params.nWarmup + 2 then
         t.phase = .sWarmup ∧ t.timer.toNat = n - 3 ∧ lineDriven t = some .high
       else if n ≤ s.params.nWarmup + s.params.nTrigger + 2 then
         t.phase = .sTrigger ∧ t.timer.toNat = n - (s.params.nWarmup + 3) ∧ lineDriven t = some .low
       else t.phase = .sample ∧ lineDriven t = none ∧ t.slotIndex = 0 ∧ t.counter = 0 ∧
         t.bitCursor = 0 ∧ t.lastLevel = .high)

/-! ### The sampler and the assembler -/

/-- R141: POLL_SAME is taken exactly when the sample equals `last_level` below the ceiling, adds one to the
counter and changes nothing else; in every state of a run the counter goes from at most 253 to at most
254. -/
def Obligations.PollSameOperation : Prop :=
  (∀ s : State, operationAt s = .pollSame ↔ s.inputs.rst = false ∧ s.phase = .sample ∧
    s.inputs.lineIn = s.lastLevel ∧ s.counter.toNat ≠ 254) ∧
  (∀ s : State, exec .pollSame s = .next { s with counter := s.counter + 1 }) ∧
  (∀ s : State, Inv s → operationAt s = .pollSame →
    s.counter.toNat ≤ 253 ∧ (s.counter + 1).toNat = s.counter.toNat + 1)

/-- POLL_TIMEOUT is taken exactly at the 255th equal sample of a slot; it sets the counter to the ceiling and
the flag, leaves for VALIDATE and keeps the slot, the level, the cursor and the buffer
(41_edge_sampler.md section 1; the spec's decision D9). -/
def Obligations.PollTimeoutOperation : Prop :=
  (∀ s : State, operationAt s = .pollTimeout ↔ s.inputs.rst = false ∧ s.phase = .sample ∧
    s.inputs.lineIn = s.lastLevel ∧ s.counter.toNat = 254) ∧
  (∀ s : State, exec .pollTimeout s =
    .next { s with counter := 255, timeout := true, phase := .validate })

/-- R144: EDGE_SKIP is taken exactly at an edge in slots 0 to 3 and in odd slots, never with `lastslot`; the
slot ends, the count is discarded, and the sampling goes on. -/
def Obligations.EdgeSkipOperation : Prop :=
  (∀ s : State, (∃ l, operationAt s = .edgeSkip l) ↔ s.inputs.rst = false ∧ s.phase = .sample ∧
    s.inputs.lineIn ≠ s.lastLevel ∧ (s.slotIndex.toNat < 4 ∨ s.slotIndex.toNat % 2 = 1)) ∧
  (∀ (s : State) (l : Bool), operationAt s = .edgeSkip l → l = false) ∧
  (∀ (s : State) (l : Bool), exec (.edgeSkip l) s =
    .next { s with
      lastLevel := s.inputs.lineIn
      counter := 0
      slotIndex := s.slotIndex + 1
      phase := if l then .validate else .sample })

/-- EDGE_BIT0 is taken exactly at an edge in a data slot with fewer than 40 bits in and a count of at most
16; a 0 is shifted into the byte of the cursor, the cursor and the slot advance, and no other byte and no
other register changes; in every state of a run the bit shifted out is 0 and the next phase is SAMPLE, which
the spec derives (42_bit_assembler.md sections 2 and 3). That an execution with `l` = 1 would lead to VALIDATE is
the model's reading (log 12): the rule itself writes SAMPLE. -/
def Obligations.EdgeBit0Operation : Prop :=
  (∀ s : State, (∃ l, operationAt s = .edgeBit0 l) ↔ s.inputs.rst = false ∧ s.phase = .sample ∧
    s.inputs.lineIn ≠ s.lastLevel ∧ 4 ≤ s.slotIndex.toNat ∧ s.slotIndex.toNat % 2 = 0 ∧
    s.bitCursor.toNat < 40 ∧ s.counter.toNat ≤ 16) ∧
  (∀ (s : State) (l : Bool), operationAt s = .edgeBit0 l → (l = true ↔ s.slotIndex.toNat = 84)) ∧
  (∀ (s : State) (l : Bool), Inv s → operationAt s = .edgeBit0 l →
    l = false ∧ (s.buf.read (s.bitCursor.toNat / 8)).getLsbD 7 = false) ∧
  (∀ (s : State) (l : Bool), s.bitCursor.toNat < 40 → ∃ t, exec (.edgeBit0 l) s = .next t ∧
    (t.buf.read (s.bitCursor.toNat / 8)).toNat
      = 2 * (s.buf.read (s.bitCursor.toNat / 8)).toNat % 256 ∧
    (∀ a, a ≠ s.bitCursor.toNat / 8 → t.buf.read a = s.buf.read a) ∧
    t = { s with
      buf := t.buf
      bitCursor := s.bitCursor + 1
      lastLevel := s.inputs.lineIn
      counter := 0
      slotIndex := s.slotIndex + 1
      phase := if l then .validate else .sample })

/-- EDGE_BIT1 is taken exactly at an edge in a data slot with fewer than 40 bits in and a count of at
least 17; a 1 is shifted into the byte of the cursor, the cursor and the slot advance, and no other byte and
no other register changes; in every state of a run the bit shifted out is 0 and the next phase is SAMPLE, which
the spec derives (42_bit_assembler.md sections 2 and 3). That an execution with `l` = 1 would lead to VALIDATE is
the model's reading (log 12): the rule itself writes SAMPLE. -/
def Obligations.EdgeBit1Operation : Prop :=
  (∀ s : State, (∃ l, operationAt s = .edgeBit1 l) ↔ s.inputs.rst = false ∧ s.phase = .sample ∧
    s.inputs.lineIn ≠ s.lastLevel ∧ 4 ≤ s.slotIndex.toNat ∧ s.slotIndex.toNat % 2 = 0 ∧
    s.bitCursor.toNat < 40 ∧ 17 ≤ s.counter.toNat) ∧
  (∀ (s : State) (l : Bool), operationAt s = .edgeBit1 l → (l = true ↔ s.slotIndex.toNat = 84)) ∧
  (∀ (s : State) (l : Bool), Inv s → operationAt s = .edgeBit1 l →
    l = false ∧ (s.buf.read (s.bitCursor.toNat / 8)).getLsbD 7 = false) ∧
  (∀ (s : State) (l : Bool), s.bitCursor.toNat < 40 → ∃ t, exec (.edgeBit1 l) s = .next t ∧
    (t.buf.read (s.bitCursor.toNat / 8)).toNat
      = 2 * (s.buf.read (s.bitCursor.toNat / 8)).toNat % 256 + 1 ∧
    (∀ a, a ≠ s.bitCursor.toNat / 8 → t.buf.read a = s.buf.read a) ∧
    t = { s with
      buf := t.buf
      bitCursor := s.bitCursor + 1
      lastLevel := s.inputs.lineIn
      counter := 0
      slotIndex := s.slotIndex + 1
      phase := if l then .validate else .sample })

/-- EDGE_OVERRUN is taken exactly at an edge in a data slot with 40 bits in, in a run only in slot 84; the bit
is dropped with no memory access, `overrun` is set and the cursor and the slot advance
(42_bit_assembler.md section 2; the spec's decision D11, log 6). That an execution with `l` = 0 would lead to
SAMPLE is the model's reading (log 12). -/
def Obligations.EdgeOverrunOperation : Prop :=
  (∀ s : State, (∃ l, operationAt s = .edgeOverrun l) ↔ s.inputs.rst = false ∧ s.phase = .sample ∧
    s.inputs.lineIn ≠ s.lastLevel ∧ 4 ≤ s.slotIndex.toNat ∧ s.slotIndex.toNat % 2 = 0 ∧
    40 ≤ s.bitCursor.toNat) ∧
  (∀ (s : State) (l : Bool), operationAt s = .edgeOverrun l → (l = true ↔ s.slotIndex.toNat = 84)) ∧
  (∀ (s : State) (l : Bool), Inv s → operationAt s = .edgeOverrun l →
    l = true ∧ s.bitCursor.toNat = 40) ∧
  (∀ (s : State) (l : Bool), exec (.edgeOverrun l) s =
    .next { s with
      overrun := true
      bitCursor := s.bitCursor + 1
      lastLevel := s.inputs.lineIn
      counter := 0
      slotIndex := s.slotIndex + 1
      phase := if l then .validate else .sample })

/-- There is no sixth byte, and no tick stores a bit with the cursor at 40 or more (20_memory.md section 3; the
spec's decision D11). That an operation that stores a bit, executed there nevertheless, stops with the fault
`noSuchByte` is the model's choice (log 11): the block has no access fault (60_exceptions.md section 1). -/
def Obligations.NoByteBeyondTheBuffer : Prop :=
  (∀ (s : State) (l : Bool), 40 ≤ s.bitCursor.toNat →
    exec (.edgeBit0 l) s = .fault (.noSuchByte (s.bitCursor.toNat / 8)) ∧
    exec (.edgeBit1 l) s = .fault (.noSuchByte (s.bitCursor.toNat / 8))) ∧
  (∀ s : State, storesBit (operationAt s) = true → s.bitCursor.toNat < 40)

/-- R161: the bit of a count is 1 exactly when the count is above 16, with the document's boundary values, and
the operation that ends a data slot is chosen by it. -/
def Obligations.ClassificationBoundary : Prop :=
  (∀ c : BitVec 8, classify c = true ↔ 16 < c.toNat) ∧
  classify 15 = false ∧ classify 16 = false ∧ classify 17 = true ∧
  (∀ (s : State) (l : Bool), operationAt s = .edgeBit1 l → classify s.counter = true) ∧
  (∀ (s : State) (l : Bool), operationAt s = .edgeBit0 l → classify s.counter = false)

/-- A stored bit is appended to the bits captured so far, in both operations that store one: the packing order
of 20_memory.md section 2 and the packing the spec derives in 42_bit_assembler.md section 3. -/
def Obligations.PackingAppendsTheBit : Prop :=
  ∀ (s t : State) (l : Bool), s.bitCursor.toNat < 40 →
    (exec (.edgeBit0 l) s = .next t →
      capturedBits t.buf t.bitCursor.toNat = capturedBits s.buf s.bitCursor.toNat ++ [false]) ∧
    (exec (.edgeBit1 l) s = .next t →
      capturedBits t.buf t.bitCursor.toNat = capturedBits s.buf s.bitCursor.toNat ++ [true])

/-- With 40 bits in, the bits in order of arrival, first most significant, are the frame, and byte k is its
bits 39 - 8k to 32 - 8k (20_memory.md section 2, 30_encoding.md section 1). -/
def Obligations.CompleteFrameIsTheBits : Prop :=
  ∀ (m : Memory) (c : Nat), 40 ≤ c →
    (capturedBits m c).length = 40 ∧
    bitsValue (capturedBits m c) = (frame m).toNat ∧
    (∀ k, k < 5 → m.read k = (frame m).extractLsb' (32 - 8 * k) 8)

/-- A slot that begins with the counter at 0 and sees c samples equal to `last_level` and then a different one,
c at most 254, ends after c + 1 ticks with the count c: the level flips, the slot advances, and exactly a
data slot with room left adds a bit, 1 when c is above 16 (41_edge_sampler.md section 2, which the spec
derives from its own rules). -/
def Obligations.SlotEndsWithItsCount : Prop :=
  ∀ (s : State) (c : Nat), Inv s → s.phase = .sample → s.counter = 0 → c ≤ 254 →
    (∀ j < c, (s.inputAt j).lineIn = s.lastLevel) → (s.inputAt c).lineIn ≠ s.lastLevel →
    (∀ j ≤ c, (s.inputAt j).rst = false) →
    ∃ t, Host.Core.run core (c + 1) s = .next t ∧ t.slotIndex.toNat = s.slotIndex.toNat + 1 ∧
      t.counter = 0 ∧ t.lastLevel ≠ s.lastLevel ∧ t.timeout = false ∧
      t.phase = (if s.slotIndex.toNat = 84 then .validate else .sample) ∧
      capturedBits t.buf t.bitCursor.toNat = capturedBits s.buf s.bitCursor.toNat ++
        (if 4 ≤ s.slotIndex.toNat ∧ s.slotIndex.toNat % 2 = 0 ∧ s.slotIndex.toNat ≠ 84
         then [decide (16 < c)] else []) ∧
      t.script = s.script.drop (c + 1) ∧ t.tick = s.tick + (c + 1)

/-- A slot that begins with the counter at 0 and sees 255 samples equal to `last_level` times out at the 255th
and leaves everything captured as it is (41_edge_sampler.md sections 1 and 2; the spec's decision D9). -/
def Obligations.SlotTimesOutAtTheCeiling : Prop :=
  ∀ s : State, s.phase = .sample → s.counter = 0 →
    (∀ j < 255, (s.inputAt j).lineIn = s.lastLevel ∧ (s.inputAt j).rst = false) →
    Host.Core.run core 255 s = .next { s with
      counter := 255
      timeout := true
      phase := .validate
      script := s.script.drop 255
      tick := s.tick + 255 }

/-- The slot loop ends whatever the line does: a tick of phase SAMPLE leaves the phase or makes a bounded
measure smaller (41_edge_sampler.md section 2, which the spec derives from its own rules). -/
def Obligations.SamplerMakesProgress : Prop :=
  ∀ s t : State, Inv s → s.phase = .sample → step s = .next t →
    t.phase ≠ .sample ∨
    255 * (85 - t.slotIndex.toNat) - t.counter.toNat < 255 * (85 - s.slotIndex.toNat) - s.counter.toNat

/-! ### The validator and the result -/

/-- R172: VALIDATE_OK is taken exactly in phase VALIDATE with 40 bits and a matching checksum; bytes 0 and 2
become the result and the read ends. -/
def Obligations.ValidateOkOperation : Prop :=
  (∀ s : State, operationAt s = .validateOk ↔ s.inputs.rst = false ∧ s.phase = .validate ∧
    40 ≤ s.bitCursor.toNat ∧ (s.buf.read 4).toNat = byteSum s.buf % 256) ∧
  (∀ s : State, exec .validateOk s = .next { s with
    humidity := s.buf.read 0
    temperature := s.buf.read 2
    status := .ok
    done := true
    pin := 0
    phase := .idle })

/-- R173: VALIDATE_BADSUM is taken exactly in phase VALIDATE with 40 bits and a checksum that disagrees; the
read ends with ChecksumMismatch in both values of ERR_MODE, and in every state of a run the result fields
are 0. -/
def Obligations.ValidateBadsumOperation : Prop :=
  (∀ s : State, operationAt s = .validateBadsum ↔ s.inputs.rst = false ∧ s.phase = .validate ∧
    40 ≤ s.bitCursor.toNat ∧ (s.buf.read 4).toNat ≠ byteSum s.buf % 256) ∧
  (∀ s : State, exec .validateBadsum s =
    .next { s with status := .checksumMismatch, done := true, pin := 0, phase := .idle }) ∧
  (∀ s : State, Inv s → s.phase = .validate → s.humidity = 0 ∧ s.temperature = 0)

/-- VALIDATE_SHORT is taken exactly in phase VALIDATE with fewer than 40 bits, whatever the checksum; the read
ends with the kind ERR_MODE gives (43_checksum_result.md section 2; the spec's decision D12). -/
def Obligations.ValidateShortOperation : Prop :=
  (∀ s : State, operationAt s = .validateShort ↔
    s.inputs.rst = false ∧ s.phase = .validate ∧ s.bitCursor.toNat < 40) ∧
  (∀ s : State, exec .validateShort s = .next { s with
    status := (if s.params.errMode = .distinct then .incompleteCapture else .checksumMismatch)
    done := true
    pin := 0
    phase := .idle }) ∧
  (∀ s : State, Inv s → operationAt s = .validateShort →
    s.timeout = true ∧ s.slotIndex.toNat ≤ 82 ∧ s.humidity = 0 ∧ s.temperature = 0)

/-- R170: the verdict. A tick of phase VALIDATE without reset ends the read, accepts exactly when 40 bits are in
and byte 4 is the sum of bytes 0 to 3 modulo 256, and gives the same for either level of the line. -/
def Obligations.VerdictRule : Prop :=
  ∀ s : State, s.inputs.rst = false → s.phase = .validate →
    ∃ t, step s = .next t ∧ t.phase = .idle ∧ t.done = true ∧
      (t.status = .ok ↔
        40 ≤ s.bitCursor.toNat ∧ (s.buf.read 4).toNat = byteSum s.buf % 256) ∧
      (∀ l, step (s.withInputs { s.inputs with lineIn := l }) = .next t)

/-- The result on the ports after a read: a pair, or a failure kind and no fields; a short capture is reported
before a bad sum (30_encoding.md section 1 and 60_exceptions.md sections 1 and 2; the spec's decisions D12,
D13, D15). -/
def Obligations.ResultOfARead : Prop :=
  ∀ s : State, s.inputs.rst = false → s.phase = .validate →
    ∃ t, step s = .next t ∧
      result t = some (
        if s.bitCursor.toNat < 40 then .err (shortKind s.params.errMode)
        else if (s.buf.read 4).toNat = byteSum s.buf % 256 then .ok (s.buf.read 0) (s.buf.read 2)
        else .err .checksumMismatch)

/-- The checksum of the buffer is its exact sum's low eight bits, and equally what an 8-bit adder that drops
every carry gives (43_checksum_result.md section 1; the spec's decision D16). -/
def Obligations.ChecksumArithmetic : Prop :=
  ∀ m : Memory, (checksum m).toNat = byteSum m % 256 ∧
    checksum m = m.read 0 + m.read 1 + m.read 2 + m.read 3 ∧ byteSum m ≤ 1020

/-- Every state of a run reaches phase IDLE within the ticks of one read, whatever the inputs are
(43_checksum_result.md section 4; the spec's decision D30 and its derivation). -/
def Obligations.EveryReadEnds : Prop :=
  ∀ s : State, Inv s → ∃ n t, n ≤ readTicks s.params ∧ Host.Core.run core n s = .next t ∧
    t.phase = .idle

/-- A read as a function of its sample stream: from any state of phase IDLE in which a command comes and no
reset follows, the read ends after at least 85 and at most 21 675 polls, and its result is the one the
run-length description gives (43_checksum_result.md section 4 and 70_reset_and_hazards.md section 4, which
the spec derives from its own rules). -/
def Obligations.ReadIsAFunctionOfTheSamples : Prop :=
  ∀ s : State, Inv s → s.phase = .idle → s.inputs.start = true →
    (∀ j < readTicks s.params, (s.inputAt j).rst = false) →
    ∃ n t, s.params.nWarmup + s.params.nTrigger + 4 + 85 ≤ n ∧ n ≤ readTicks s.params ∧
      Host.Core.run core n s = .next t ∧ t.phase = .idle ∧ t.done = true ∧
      result t = some (readFunction s.params.errMode
        fun j => (s.inputAt (s.params.nWarmup + s.params.nTrigger + 3 + j)).lineIn)

/-- Every output port and every readable word of the register view shows the registers, field by field, the codes
of `status` among them (10_state.md sections 1, 4 and 5; the spec's decisions D2, D13, D25, D28). -/
def Obligations.PortsShowTheRegisters : Prop :=
  ∀ s : State,
    (outputs s).lineOe = (if s.lineOe = .output then 1 else 0) ∧
    (outputs s).lineOut = (if s.lineOut = .high then 1 else 0) ∧
    (outputs s).pinSel = s.pin ∧
    ((outputs s).busy = true ↔ s.phase ≠ .idle) ∧
    (outputs s).done = s.done ∧
    (outputs s).status.toNat = (match s.status with
      | .none => 0
      | .ok => 1
      | .checksumMismatch => 2
      | .incompleteCapture => 3) ∧
    (outputs s).humidity = s.humidity ∧
    (outputs s).temperature = s.temperature ∧
    (outputs s).dbgBitCount = s.bitCursor ∧
    (outputs s).dbgSlot = s.slotIndex ∧
    (outputs s).dbgTimeout = s.timeout ∧
    (outputs s).dbgOverrun = s.overrun ∧
    (∀ k, k < 5 → (outputs s).dbgRaw.extractLsb' (32 - 8 * k) 8 = s.buf.read k) ∧
    (statusWord s).getLsbD 0 = (outputs s).busy ∧
    (statusWord s).getLsbD 1 = s.done ∧
    (statusWord s).extractLsb' 2 2 = (outputs s).status ∧
    (statusWord s).getLsbD 4 = s.timeout ∧
    (statusWord s).getLsbD 5 = s.overrun ∧
    (statusWord s).extractLsb' 6 6 = s.bitCursor ∧
    (statusWord s).extractLsb' 12 7 = s.slotIndex ∧
    (resultWord s).extractLsb' 0 8 = s.humidity ∧
    (resultWord s).extractLsb' 8 8 = s.temperature ∧
    (∀ k, k < 5 → (rawWord s).extractLsb' (32 - 8 * k) 8 = s.buf.read k)

/-! ### Phase 7 -/

/-- ILLEGAL_PHASE is taken exactly at phase 7 and returns to IDLE with the line released
(70_reset_and_hazards.md section 1; the spec's decision D4, log 2). -/
def Obligations.IllegalPhaseOperation : Prop :=
  (∀ s : State, operationAt s = .illegalPhase ↔ s.inputs.rst = false ∧ s.phase = .illegal) ∧
  (∀ s : State, exec .illegalPhase s = .next { s with phase := .idle, lineOe := .input })

/-! ### Frames -/

/-- What the operations of the start sequence leave unchanged: all but the registers each names, and every byte
(40_command_start_sequence.md). -/
def Obligations.FrameOfTheStartSequence : Prop :=
  ∀ s t : State,
    (exec .idle s = .next t → t = s) ∧
    (exec .startModeOut s = .next t → t = { s with lineOe := t.lineOe, phase := t.phase }) ∧
    (exec .startHigh s = .next t →
      t = { s with lineOut := t.lineOut, timer := t.timer, phase := t.phase }) ∧
    (exec .warmupWait s = .next t → t = { s with timer := t.timer }) ∧
    (exec .startLow s = .next t →
      t = { s with lineOut := t.lineOut, timer := t.timer, phase := t.phase }) ∧
    (exec .triggerWait s = .next t → t = { s with timer := t.timer }) ∧
    (exec .startRelease s = .next t → t = { s with
      lineOe := t.lineOe, timer := t.timer, counter := t.counter, phase := t.phase }) ∧
    (∀ i ∈ [Instr.idle, .startModeOut, .startHigh, .warmupWait, .startLow, .triggerWait,
      .startRelease], exec i s = .next t → ∀ a, t.buf.read a = s.buf.read a)

/-- What the operations of the sampler and the assembler leave unchanged: all but the registers each names, and
every byte but the one EDGE_BIT0 and EDGE_BIT1 store to, the byte of the cursor (41_edge_sampler.md,
42_bit_assembler.md). -/
def Obligations.FrameOfTheSampler : Prop :=
  ∀ (s t : State) (l : Bool),
    (exec .pollSame s = .next t → t = { s with counter := t.counter }) ∧
    (exec .pollTimeout s = .next t →
      t = { s with counter := t.counter, timeout := t.timeout, phase := t.phase }) ∧
    (exec (.edgeSkip l) s = .next t → t = { s with
      lastLevel := t.lastLevel, counter := t.counter, slotIndex := t.slotIndex, phase := t.phase }) ∧
    (exec (.edgeOverrun l) s = .next t → t = { s with
      overrun := t.overrun, bitCursor := t.bitCursor, lastLevel := t.lastLevel,
      counter := t.counter, slotIndex := t.slotIndex, phase := t.phase }) ∧
    (∀ i ∈ [Instr.pollSame, .pollTimeout, .edgeSkip l, .edgeOverrun l], exec i s = .next t →
      ∀ a, t.buf.read a = s.buf.read a) ∧
    (∀ i ∈ [Instr.edgeBit0 l, .edgeBit1 l], exec i s = .next t →
      t = { s with
        buf := t.buf, bitCursor := t.bitCursor, lastLevel := t.lastLevel, counter := t.counter,
        slotIndex := t.slotIndex, phase := t.phase } ∧
      ∀ a, a ≠ byteIndex s.bitCursor → t.buf.read a = s.buf.read a)

/-- What the operations that end a read leave unchanged: all but the result registers each writes, `done`,
`pin` and the phase, and every byte: what was captured stays readable (43_checksum_result.md section 2; the
spec's decisions D22, D27). -/
def Obligations.FrameOfTheValidator : Prop :=
  ∀ s t : State,
    (exec .validateOk s = .next t → t = { s with
      humidity := t.humidity, temperature := t.temperature, status := t.status, done := t.done,
      pin := t.pin, phase := t.phase }) ∧
    (∀ i ∈ [Instr.validateBadsum, .validateShort], exec i s = .next t → t = { s with
      status := t.status, done := t.done, pin := t.pin, phase := t.phase }) ∧
    (∀ i ∈ [Instr.validateOk, .validateBadsum, .validateShort], exec i s = .next t →
      ∀ a, t.buf.read a = s.buf.read a)

/-- What READ, RESET and ILLEGAL_PHASE leave unchanged: READ keeps `line_oe`, RESET no register, ILLEGAL_PHASE
all but the phase and `line_oe`; none touches the parameters or the inputs; READ and RESET store to the five
bytes of the data space and to no other address (40_command_start_sequence.md section 1,
70_reset_and_hazards.md section 1). -/
def Obligations.FrameOfReadAndReset : Prop :=
  ∀ s t : State,
    (exec .read s = .next t →
      t.lineOe = s.lineOe ∧ t.params = s.params ∧ t.script = s.script ∧ t.tick = s.tick) ∧
    (exec .reset s = .next t → t.params = s.params ∧ t.script = s.script ∧ t.tick = s.tick) ∧
    (∀ i ∈ [Instr.read, .reset], s.buf.wf = true → exec i s = .next t →
      ∀ a, 5 ≤ a → t.buf.read a = s.buf.read a) ∧
    (exec .illegalPhase s = .next t →
      t = { s with phase := t.phase, lineOe := t.lineOe } ∧ ∀ a, t.buf.read a = s.buf.read a)

/-! ### Rules of the whole machine -/

/-- Every tick takes exactly one operation, and it has its effect: no tick faults and none is refused
(30_encoding.md section 2 and 70_reset_and_hazards.md section 4, which the spec derives from its table). -/
def Obligations.EveryTickTakesItsOperation : Prop :=
  ∀ s : State, ∃ t u, exec (operationAt s) s = .next u ∧ step s = .next t ∧ t = u.nextTick

/-- The invariant holds at reset. -/
def Obligations.InvariantAtReset : Prop :=
  Inv State.reset

/-- The invariant is kept by every tick, whatever the inputs are. -/
def Obligations.InvariantKept : Prop :=
  ∀ s t : State, Inv s → step s = .next t → Inv t

/-- What the invariant says in the spec's words: the list of 10_state.md section 7, which the spec derives, and
the derived facts on data slots, short captures and `done` (10_state.md sections 3 and 4, 42_bit_assembler.md
section 3). -/
def Obligations.InvariantSaysTheSpecsList : Prop :=
  ∀ s : State, Inv s →
    s.phase ≠ .illegal ∧ s.slotIndex.toNat ≤ 85 ∧ s.bitCursor.toNat ≤ 41 ∧
    (s.counter.toNat = 255 → s.timeout = true ∧ (s.phase = .validate ∨ s.phase = .idle)) ∧
    (s.phase = .sample → s.slotIndex.toNat ≤ 84 ∧ s.counter.toNat ≤ 254 ∧ s.lineOe = .input ∧
      s.timeout = false ∧ s.overrun = false) ∧
    (s.overrun = true → s.bitCursor.toNat = 41 ∧ s.slotIndex.toNat = 85) ∧
    (s.phase = .idle → s.lineOe = .input) ∧
    (s.lineOe = .output → s.phase = .sHigh ∨ s.phase = .sWarmup ∨ s.phase = .sTrigger) ∧
    (s.done = true → s.phase = .idle) ∧
    (∀ k, k < 5 → s.bitCursor.toNat ≤ 8 * k → s.buf.read k = 0) ∧
    (s.phase = .sample → 4 ≤ s.slotIndex.toNat → s.slotIndex.toNat % 2 = 0 →
      s.lastLevel = .high ∧ s.bitCursor.toNat = (s.slotIndex.toNat - 4) / 2) ∧
    (s.timeout = true → (s.bitCursor.toNat < 40 ↔ s.slotIndex.toNat ≤ 82)) ∧
    (s.done = true ↔ s.status ≠ .none)

/-- R31: who writes the buffer. READ and RESET clear all five bytes, EDGE_BIT0 and EDGE_BIT1 rewrite the byte of
the cursor, which exists, with their bit shifted in, the validator reads all five, and nothing else touches
them. -/
def Obligations.WhoWritesTheBuffer : Prop :=
  ∀ s t : State, step s = .next t →
    (operationAt s = .read ∨ operationAt s = .reset → ∀ k, t.buf.read k = 0) ∧
    (storesBit (operationAt s) = true → s.bitCursor.toNat / 8 < 5 ∧
      ∀ k, k ≠ s.bitCursor.toNat / 8 → t.buf.read k = s.buf.read k) ∧
    (∀ l, operationAt s = .edgeBit0 l → (t.buf.read (s.bitCursor.toNat / 8)).toNat
      = 2 * (s.buf.read (s.bitCursor.toNat / 8)).toNat % 256) ∧
    (∀ l, operationAt s = .edgeBit1 l → (t.buf.read (s.bitCursor.toNat / 8)).toNat
      = 2 * (s.buf.read (s.bitCursor.toNat / 8)).toNat % 256 + 1) ∧
    (operationAt s = .validateOk → (s.buf.read 4).toNat = byteSum s.buf % 256) ∧
    (operationAt s = .validateBadsum → (s.buf.read 4).toNat ≠ byteSum s.buf % 256) ∧
    (operationAt s ≠ .read → operationAt s ≠ .reset → storesBit (operationAt s) = false →
      t.buf = s.buf)

/-- R24: who writes `slot_index`. READ and RESET clear it, each EDGE operation adds one, nothing else writes it;
it reaches 85 only from slot 84 by an edge that leaves phase SAMPLE, and no slot 85 is waited for. -/
def Obligations.WhoWritesTheSlotIndex : Prop :=
  (∀ s t : State, step s = .next t →
    (operationAt s = .read ∨ operationAt s = .reset → t.slotIndex = 0) ∧
    (isEdge (operationAt s) = true → t.slotIndex = s.slotIndex + 1) ∧
    (operationAt s ≠ .read → operationAt s ≠ .reset → isEdge (operationAt s) = false →
      t.slotIndex = s.slotIndex) ∧
    (t.slotIndex.toNat = 85 → s.slotIndex.toNat ≠ 85 →
      isEdge (operationAt s) = true ∧ s.slotIndex.toNat = 84 ∧ t.phase ≠ .sample)) ∧
  (∀ s : State, Inv s → s.phase = .sample → s.slotIndex.toNat ≤ 84)

/-- Each register but `buf` and `slot_index` changes only by the operations the spec lets write it (10_state.md
sections 2, 3, 4 and 7, 70_reset_and_hazards.md section 1; the spec's decisions D3 to D11, D13, D15, D22, D25,
D27). -/
def Obligations.WhoWritesTheOtherRegisters : Prop :=
  ∀ s t : State, step s = .next t →
    (t.phase ≠ s.phase → operationAt s ∈ [.reset, .read, .startModeOut, .startHigh, .startLow,
        .startRelease, .pollTimeout, .illegalPhase] ∨ endsRead (operationAt s) = true ∨
      (isEdge (operationAt s) = true ∧ s.slotIndex.toNat = 84)) ∧
    (t.lastLevel ≠ s.lastLevel → isEdge (operationAt s) = true ∨ operationAt s ∈ [.read, .reset]) ∧
    (t.counter ≠ s.counter → isEdge (operationAt s) = true ∨
      operationAt s ∈ [.read, .reset, .startRelease, .pollSame, .pollTimeout]) ∧
    (t.bitCursor ≠ s.bitCursor → storesBit (operationAt s) = true ∨
      operationAt s ∈ [.read, .reset, .edgeOverrun true, .edgeOverrun false]) ∧
    (t.timer ≠ s.timer → operationAt s ∈
      [.read, .reset, .startHigh, .warmupWait, .startLow, .triggerWait, .startRelease]) ∧
    (t.pin ≠ s.pin → operationAt s ∈ [.read, .reset] ∨ endsRead (operationAt s) = true) ∧
    (t.lineOe ≠ s.lineOe → operationAt s ∈ [.reset, .startModeOut, .startRelease, .illegalPhase]) ∧
    (t.lineOut ≠ s.lineOut → operationAt s ∈ [.read, .reset, .startHigh, .startLow]) ∧
    (t.timeout ≠ s.timeout → operationAt s ∈ [.read, .reset, .pollTimeout]) ∧
    (t.overrun ≠ s.overrun → operationAt s ∈
      [.read, .reset, .edgeOverrun true, .edgeOverrun false]) ∧
    (t.done ≠ s.done → operationAt s ∈ [.read, .reset] ∨ endsRead (operationAt s) = true) ∧
    (t.status ≠ s.status → operationAt s ∈ [.read, .reset] ∨ endsRead (operationAt s) = true) ∧
    (t.humidity ≠ s.humidity → operationAt s ∈ [.read, .reset, .validateOk]) ∧
    (t.temperature ≠ s.temperature → operationAt s ∈ [.read, .reset, .validateOk])

/-- The model's own fields: no tick changes the parameters (log 3), and each tick brings up the next tick's
inputs (log 1). -/
def Obligations.TicksConsumeOneInput : Prop :=
  ∀ s t : State, step s = .next t →
    t.params = s.params ∧ t.tick = s.tick + 1 ∧ ∀ j, t.inputAt j = s.inputAt (j + 1)

/-- A command raised while a read is in progress is ignored: outside phase IDLE the tick is the same for every
`start` and `pin_in` (40_command_start_sequence.md section 3; the spec's decision D14). -/
def Obligations.StartIsIgnoredWhileBusy : Prop :=
  ∀ (s : State) (i : TickInputs) (b : Bool) (p : Nat), s.phase ≠ .idle →
    step (s.withInputs { i with start := b, pinIn := p }) = step (s.withInputs i)

/-- The line is read only in phase SAMPLE: in every other phase the tick is the same for both levels; and in
phase SAMPLE the block does not drive it (20_memory.md section 1). -/
def Obligations.LineIsReadOnlyInSample : Prop :=
  (∀ (s : State) (i : TickInputs) (l : Level), s.phase ≠ .sample →
    step (s.withInputs { i with lineIn := l }) = step (s.withInputs i)) ∧
  (∀ s : State, Inv s → s.phase = .sample → lineDriven s = none)

/-- No data of an earlier read reaches the next: two states of phase IDLE with the same parameters and inputs
are in the same state after READ (10_state.md sections 6 and 7, which the spec derives). -/
def Obligations.ReadForgetsThePast : Prop :=
  ∀ s s' : State, Inv s → Inv s' → s.phase = .idle → s'.phase = .idle →
    s.params = s'.params → s.script = s'.script → s.tick = s'.tick →
    s.inputs.rst = false → s.inputs.start = true →
    ∃ t, step s = .next t ∧ step s' = .next t

/-- The pin, the flags and the result registers decide nothing: other values in them change no other register
after a tick (10_state.md sections 3 and 4; the spec's decisions D22, D25). -/
def Obligations.PinAndFlagsDecideNothing : Prop :=
  ∀ (s t : State) (p : Nat) (a b d : Bool) (c : Status) (h e : Byte), step s = .next t →
    ∃ t', step { s with
        pin := p, timeout := a, overrun := b, done := d, status := c, humidity := h,
        temperature := e } = .next t' ∧
      t' = { t with
        pin := t'.pin, timeout := t'.timeout, overrun := t'.overrun, done := t'.done,
        status := t'.status, humidity := t'.humidity, temperature := t'.temperature }
end

