-- ==== Sys2Proof/Laws/Memory.lean ====
section
/-! SUPPORT. The data space: a byte read after a write, every other byte unchanged, and the canonical form
kept by every memory operation. -/

namespace Sys2Proof.Machine

@[simp] theorem read_nil (k : Nat) : Memory.read [] k = unlistedByte := rfl

theorem read_erase_same (m : Memory) (k : Nat) : (m.erase k).read k = unlistedByte := by
  induction m with
  | nil => rfl
  | cons c m ih =>
    unfold Memory.erase at ih ⊢
    by_cases h : c.1 = k <;> simp [h, Memory.read, ih]

theorem read_erase_other {a k : Nat} (h : a ≠ k) (m : Memory) : (m.erase k).read a = m.read a := by
  induction m with
  | nil => rfl
  | cons c m ih =>
    unfold Memory.erase at ih ⊢
    by_cases hc : c.1 = k
    · simp [hc, Memory.read, ih, h.symm]
    · by_cases ha : c.1 = a <;> simp [hc, Memory.read, ih]

theorem read_insert_same (m : Memory) (k : Nat) (v : Byte) (h : ∀ c ∈ m, c.1 ≠ k) :
    (m.insert k v).read k = v := by
  induction m with
  | nil => simp [Memory.insert, Memory.read]
  | cons c m ih =>
    have hc : c.1 ≠ k := h c (by simp)
    have ih := ih fun d hd => h d (by simp [hd])
    unfold Memory.insert
    split <;> simp [Memory.read, hc, ih]

theorem read_insert_other {a k : Nat} (h : a ≠ k) (m : Memory) (v : Byte) :
    (m.insert k v).read a = m.read a := by
  induction m with
  | nil => simp [Memory.insert, Memory.read, h.symm]
  | cons c m ih =>
    unfold Memory.insert
    split
    · simp [Memory.read, h.symm]
    · simp [Memory.read, ih]

theorem ne_of_mem_erase {m : Memory} {k : Nat} {c : Host.Cell} (h : c ∈ m.erase k) : c.1 ≠ k := by
  simpa using (List.mem_filter.mp h).2

/-- A byte written is the byte read back. -/
@[simp] theorem read_write_same (m : Memory) (k : Nat) (v : Byte) : (m.write k v).read k = v := by
  unfold Memory.write
  split
  · rename_i h
    rw [read_erase_same, h]
  · exact read_insert_same _ _ _ fun c hc => ne_of_mem_erase hc

/-- A write leaves every other byte alone. -/
theorem read_write_other {a k : Nat} (h : a ≠ k) (m : Memory) (v : Byte) :
    (m.write k v).read a = m.read a := by
  unfold Memory.write
  split
  · exact read_erase_other h m
  · rw [read_insert_other h, read_erase_other h]

theorem read_write (m : Memory) (k a : Nat) (v : Byte) :
    (m.write k v).read a = if a = k then v else m.read a := by
  split
  · rename_i h
    rw [h, read_write_same]
  · rename_i h
    exact read_write_other h m v

/-- The canonical form in terms of the list's members. -/
theorem wf_iff (m : Memory) : m.wf = true ↔
    m.Pairwise (fun c d => c.1 < d.1) ∧ ∀ c ∈ m, c.2 ≠ unlistedByte ∧ c.1 < Config.nBytes := by
  induction m with
  | nil => simp [Memory.wf]
  | cons c m ih =>
    cases m with
    | nil => simp [Memory.wf]
    | cons d m =>
      have step : Memory.wf (c :: d :: m) = true ↔
          c.2 ≠ unlistedByte ∧ c.1 < d.1 ∧ Memory.wf (d :: m) = true := by
        simp [Memory.wf, and_assoc]
      rw [step, ih]
      constructor
      · rintro ⟨hc, hcd, hp, hm⟩
        have hlt : ∀ e ∈ d :: m, c.1 < e.1 := by
          intro e he
          rcases List.mem_cons.mp he with rfl | he
          · exact hcd
          · exact lt_trans hcd ((List.pairwise_cons.mp hp).1 e he)
        refine ⟨List.pairwise_cons.mpr ⟨hlt, hp⟩, ?_⟩
        intro e he
        rcases List.mem_cons.mp he with rfl | he
        · exact ⟨hc, lt_trans hcd (hm d (by simp)).2⟩
        · exact hm e he
      · rintro ⟨hp, hm⟩
        have hp := List.pairwise_cons.mp hp
        exact ⟨(hm c (by simp)).1, hp.1 d (by simp), hp.2, fun e he => hm e (by simp [he])⟩

theorem wf_erase {m : Memory} (h : m.wf = true) (k : Nat) : (m.erase k).wf = true := by
  rw [wf_iff] at h ⊢
  exact ⟨h.1.filter _, fun c hc => h.2 c (List.mem_filter.mp hc).1⟩

theorem mem_insert {m : Memory} {k : Nat} {v : Byte} {c : Host.Cell} (h : c ∈ m.insert k v) :
    c = (k, v) ∨ c ∈ m := by
  induction m with
  | nil => simpa [Memory.insert] using h
  | cons d m ih =>
    unfold Memory.insert at h
    split at h
    · simpa using h
    · rcases List.mem_cons.mp h with rfl | h
      · simp
      · rcases ih h with h | h
        · exact .inl h
        · exact .inr (by simp [h])

theorem wf_insert {m : Memory} (h : m.wf = true) {k : Nat} {v : Byte} (hk : k < Config.nBytes)
    (hv : v ≠ unlistedByte) (hm : ∀ c ∈ m, c.1 ≠ k) : (m.insert k v).wf = true := by
  rw [wf_iff] at h ⊢
  refine ⟨?_, fun c hc => (mem_insert hc).elim (fun e => e ▸ ⟨hv, hk⟩) (h.2 c)⟩
  induction m with
  | nil => simp [Memory.insert]
  | cons d m ih =>
    have hp := List.pairwise_cons.mp h.1
    unfold Memory.insert
    split
    · rename_i hlt
      refine List.pairwise_cons.mpr ⟨?_, h.1⟩
      intro e he
      rcases List.mem_cons.mp he with rfl | he
      · exact hlt
      · exact lt_trans hlt (hp.1 e he)
    · rename_i hge
      refine List.pairwise_cons.mpr ⟨?_, ih ⟨hp.2, fun c hc => h.2 c (by simp [hc])⟩
        fun c hc => hm c (by simp [hc])⟩
      intro e he
      rcases mem_insert he with rfl | he
      · have := hm d (by simp)
        simp only
        omega
      · exact hp.1 e he

/-- A write to an address of the data space keeps the canonical form. -/
theorem wf_write {m : Memory} (h : m.wf = true) {k : Nat} (hk : k < Config.nBytes) (v : Byte) :
    (m.write k v).wf = true := by
  unfold Memory.write
  split
  · exact wf_erase h k
  · rename_i hv
    exact wf_insert (wf_erase h k) hk hv fun c hc => ne_of_mem_erase hc

theorem read_eq_unlisted {m : Memory} {k : Nat} (h : ∀ c ∈ m, c.1 ≠ k) : m.read k = unlistedByte := by
  induction m with
  | nil => rfl
  | cons c m ih =>
    simp [Memory.read, h c (by simp), ih fun d hd => h d (by simp [hd])]

/-- In the canonical form nothing stands at an address that does not exist. -/
theorem read_outside {m : Memory} (h : m.wf = true) {k : Nat} (hk : Config.nBytes ≤ k) :
    m.read k = unlistedByte :=
  read_eq_unlisted fun c hc => by
    have := ((wf_iff m).mp h).2 c hc
    omega

/-- Memories in the canonical form with the same bytes are the same data. -/
theorem memory_ext {m n : Memory} (hm : m.wf = true) (hn : n.wf = true)
    (h : ∀ k, m.read k = n.read k) : m = n := by
  rw [wf_iff] at hm hn
  induction m generalizing n with
  | nil =>
    cases n with
    | nil => rfl
    | cons d n =>
      have h := h d.1
      simp [Memory.read] at h
      exact absurd h.symm (hn.2 d (by simp)).1
  | cons c m ih =>
    cases n with
    | nil =>
      have h := h c.1
      simp [Memory.read] at h
      exact absurd h (hm.2 c (by simp)).1
    | cons d n =>
      have pm := List.pairwise_cons.mp hm.1
      have pn := List.pairwise_cons.mp hn.1
      have hcd : c.1 = d.1 := by
        rcases lt_trichotomy c.1 d.1 with hlt | he | hgt
        · have h := h c.1
          have hd : Memory.read (d :: n) c.1 = unlistedByte := read_eq_unlisted fun e he => by
            rcases List.mem_cons.mp he with rfl | he
            · omega
            · have := pn.1 e he
              omega
          simp [Memory.read] at h hd
          exact absurd (h.trans hd) (hm.2 c (by simp)).1
        · exact he
        · have h := h d.1
          have hc : Memory.read (c :: m) d.1 = unlistedByte := read_eq_unlisted fun e he => by
            rcases List.mem_cons.mp he with rfl | he
            · omega
            · have := pm.1 e he
              omega
          simp [Memory.read] at h hc
          exact absurd (h.symm.trans hc) (hn.2 d (by simp)).1
      have hv : c.2 = d.2 := by
        have h := h c.1
        simpa [Memory.read, hcd] using h
      have he : c = d := Prod.ext hcd hv
      subst he
      congr 1
      refine ih ⟨pm.2, fun e h => hm.2 e (by simp [h])⟩ ⟨pn.2, fun e h => hn.2 e (by simp [h])⟩ ?_
      intro k
      have h := h k
      simp only [Memory.read] at h
      split at h
      · rename_i hk
        rw [read_eq_unlisted fun e he => (by have := pm.1 e he; omega),
          read_eq_unlisted fun e he => (by have := pn.1 e he; omega)]
      · exact h

end Sys2Proof.Machine
end

