-- ==== Sys2Proof/Laws/State.lean ====
section
/-! SUPPORT. What each shared update of the state does to each field: one lemma per field per update, so that
no proof unfolds a record update. -/

namespace Sys2Proof.Machine

/-! ### setByte -/

section
variable (s : State) (k : Nat) (v : Byte)

@[simp] theorem setByte_phase : (State.setByte s k v).phase = s.phase := (rfl)
@[simp] theorem setByte_slotIndex : (State.setByte s k v).slotIndex = s.slotIndex := (rfl)
@[simp] theorem setByte_lastLevel : (State.setByte s k v).lastLevel = s.lastLevel := (rfl)
@[simp] theorem setByte_counter : (State.setByte s k v).counter = s.counter := (rfl)
@[simp] theorem setByte_bitCursor : (State.setByte s k v).bitCursor = s.bitCursor := (rfl)
@[simp] theorem setByte_buf : (State.setByte s k v).buf = s.buf.write k v := (rfl)
@[simp] theorem setByte_timer : (State.setByte s k v).timer = s.timer := (rfl)
@[simp] theorem setByte_pin : (State.setByte s k v).pin = s.pin := (rfl)
@[simp] theorem setByte_lineOe : (State.setByte s k v).lineOe = s.lineOe := (rfl)
@[simp] theorem setByte_lineOut : (State.setByte s k v).lineOut = s.lineOut := (rfl)
@[simp] theorem setByte_timeout : (State.setByte s k v).timeout = s.timeout := (rfl)
@[simp] theorem setByte_overrun : (State.setByte s k v).overrun = s.overrun := (rfl)
@[simp] theorem setByte_done : (State.setByte s k v).done = s.done := (rfl)
@[simp] theorem setByte_status : (State.setByte s k v).status = s.status := (rfl)
@[simp] theorem setByte_humidity : (State.setByte s k v).humidity = s.humidity := (rfl)
@[simp] theorem setByte_temperature : (State.setByte s k v).temperature = s.temperature := (rfl)
@[simp] theorem setByte_params : (State.setByte s k v).params = s.params := (rfl)
@[simp] theorem setByte_script : (State.setByte s k v).script = s.script := (rfl)
@[simp] theorem setByte_tick : (State.setByte s k v).tick = s.tick := (rfl)

end

/-! ### withInputs -/

section
variable (s : State) (i : TickInputs)

@[simp] theorem withInputs_phase : (State.withInputs i s).phase = s.phase := (rfl)
@[simp] theorem withInputs_slotIndex : (State.withInputs i s).slotIndex = s.slotIndex := (rfl)
@[simp] theorem withInputs_lastLevel : (State.withInputs i s).lastLevel = s.lastLevel := (rfl)
@[simp] theorem withInputs_counter : (State.withInputs i s).counter = s.counter := (rfl)
@[simp] theorem withInputs_bitCursor : (State.withInputs i s).bitCursor = s.bitCursor := (rfl)
@[simp] theorem withInputs_buf : (State.withInputs i s).buf = s.buf := (rfl)
@[simp] theorem withInputs_timer : (State.withInputs i s).timer = s.timer := (rfl)
@[simp] theorem withInputs_pin : (State.withInputs i s).pin = s.pin := (rfl)
@[simp] theorem withInputs_lineOe : (State.withInputs i s).lineOe = s.lineOe := (rfl)
@[simp] theorem withInputs_lineOut : (State.withInputs i s).lineOut = s.lineOut := (rfl)
@[simp] theorem withInputs_timeout : (State.withInputs i s).timeout = s.timeout := (rfl)
@[simp] theorem withInputs_overrun : (State.withInputs i s).overrun = s.overrun := (rfl)
@[simp] theorem withInputs_done : (State.withInputs i s).done = s.done := (rfl)
@[simp] theorem withInputs_status : (State.withInputs i s).status = s.status := (rfl)
@[simp] theorem withInputs_humidity : (State.withInputs i s).humidity = s.humidity := (rfl)
@[simp] theorem withInputs_temperature : (State.withInputs i s).temperature = s.temperature := (rfl)
@[simp] theorem withInputs_params : (State.withInputs i s).params = s.params := (rfl)
@[simp] theorem withInputs_script : (State.withInputs i s).script = i :: s.script.tail := (rfl)
@[simp] theorem withInputs_tick : (State.withInputs i s).tick = s.tick := (rfl)

end

/-! ### nextTick -/

section
variable (s : State)

@[simp] theorem nextTick_phase : (State.nextTick s).phase = s.phase := (rfl)
@[simp] theorem nextTick_slotIndex : (State.nextTick s).slotIndex = s.slotIndex := (rfl)
@[simp] theorem nextTick_lastLevel : (State.nextTick s).lastLevel = s.lastLevel := (rfl)
@[simp] theorem nextTick_counter : (State.nextTick s).counter = s.counter := (rfl)
@[simp] theorem nextTick_bitCursor : (State.nextTick s).bitCursor = s.bitCursor := (rfl)
@[simp] theorem nextTick_buf : (State.nextTick s).buf = s.buf := (rfl)
@[simp] theorem nextTick_timer : (State.nextTick s).timer = s.timer := (rfl)
@[simp] theorem nextTick_pin : (State.nextTick s).pin = s.pin := (rfl)
@[simp] theorem nextTick_lineOe : (State.nextTick s).lineOe = s.lineOe := (rfl)
@[simp] theorem nextTick_lineOut : (State.nextTick s).lineOut = s.lineOut := (rfl)
@[simp] theorem nextTick_timeout : (State.nextTick s).timeout = s.timeout := (rfl)
@[simp] theorem nextTick_overrun : (State.nextTick s).overrun = s.overrun := (rfl)
@[simp] theorem nextTick_done : (State.nextTick s).done = s.done := (rfl)
@[simp] theorem nextTick_status : (State.nextTick s).status = s.status := (rfl)
@[simp] theorem nextTick_humidity : (State.nextTick s).humidity = s.humidity := (rfl)
@[simp] theorem nextTick_temperature : (State.nextTick s).temperature = s.temperature := (rfl)
@[simp] theorem nextTick_params : (State.nextTick s).params = s.params := (rfl)
@[simp] theorem nextTick_script : (State.nextTick s).script = s.script.tail := (rfl)
@[simp] theorem nextTick_tick : (State.nextTick s).tick = s.tick + 1 := (rfl)

end

/-! ### lineMode -/

section
variable (s : State) (m : PinMode)

@[simp] theorem lineMode_phase : (lineMode m s).phase = s.phase := (rfl)
@[simp] theorem lineMode_slotIndex : (lineMode m s).slotIndex = s.slotIndex := (rfl)
@[simp] theorem lineMode_lastLevel : (lineMode m s).lastLevel = s.lastLevel := (rfl)
@[simp] theorem lineMode_counter : (lineMode m s).counter = s.counter := (rfl)
@[simp] theorem lineMode_bitCursor : (lineMode m s).bitCursor = s.bitCursor := (rfl)
@[simp] theorem lineMode_buf : (lineMode m s).buf = s.buf := (rfl)
@[simp] theorem lineMode_timer : (lineMode m s).timer = s.timer := (rfl)
@[simp] theorem lineMode_pin : (lineMode m s).pin = s.pin := (rfl)
@[simp] theorem lineMode_lineOe : (lineMode m s).lineOe = m := (rfl)
@[simp] theorem lineMode_lineOut : (lineMode m s).lineOut = s.lineOut := (rfl)
@[simp] theorem lineMode_timeout : (lineMode m s).timeout = s.timeout := (rfl)
@[simp] theorem lineMode_overrun : (lineMode m s).overrun = s.overrun := (rfl)
@[simp] theorem lineMode_done : (lineMode m s).done = s.done := (rfl)
@[simp] theorem lineMode_status : (lineMode m s).status = s.status := (rfl)
@[simp] theorem lineMode_humidity : (lineMode m s).humidity = s.humidity := (rfl)
@[simp] theorem lineMode_temperature : (lineMode m s).temperature = s.temperature := (rfl)
@[simp] theorem lineMode_params : (lineMode m s).params = s.params := (rfl)
@[simp] theorem lineMode_script : (lineMode m s).script = s.script := (rfl)
@[simp] theorem lineMode_tick : (lineMode m s).tick = s.tick := (rfl)

end

/-! ### lineWrite -/

section
variable (s : State) (v : Level)

@[simp] theorem lineWrite_phase : (lineWrite v s).phase = s.phase := (rfl)
@[simp] theorem lineWrite_slotIndex : (lineWrite v s).slotIndex = s.slotIndex := (rfl)
@[simp] theorem lineWrite_lastLevel : (lineWrite v s).lastLevel = s.lastLevel := (rfl)
@[simp] theorem lineWrite_counter : (lineWrite v s).counter = s.counter := (rfl)
@[simp] theorem lineWrite_bitCursor : (lineWrite v s).bitCursor = s.bitCursor := (rfl)
@[simp] theorem lineWrite_buf : (lineWrite v s).buf = s.buf := (rfl)
@[simp] theorem lineWrite_timer : (lineWrite v s).timer = s.timer := (rfl)
@[simp] theorem lineWrite_pin : (lineWrite v s).pin = s.pin := (rfl)
@[simp] theorem lineWrite_lineOe : (lineWrite v s).lineOe = s.lineOe := (rfl)
@[simp] theorem lineWrite_lineOut : (lineWrite v s).lineOut = v := (rfl)
@[simp] theorem lineWrite_timeout : (lineWrite v s).timeout = s.timeout := (rfl)
@[simp] theorem lineWrite_overrun : (lineWrite v s).overrun = s.overrun := (rfl)
@[simp] theorem lineWrite_done : (lineWrite v s).done = s.done := (rfl)
@[simp] theorem lineWrite_status : (lineWrite v s).status = s.status := (rfl)
@[simp] theorem lineWrite_humidity : (lineWrite v s).humidity = s.humidity := (rfl)
@[simp] theorem lineWrite_temperature : (lineWrite v s).temperature = s.temperature := (rfl)
@[simp] theorem lineWrite_params : (lineWrite v s).params = s.params := (rfl)
@[simp] theorem lineWrite_script : (lineWrite v s).script = s.script := (rfl)
@[simp] theorem lineWrite_tick : (lineWrite v s).tick = s.tick := (rfl)

end

/-! ### endSlot -/

section
variable (s : State) (l : Bool)

@[simp] theorem endSlot_phase : (endSlot l s).phase = (if l then Phase.validate else Phase.sample) := (rfl)
@[simp] theorem endSlot_slotIndex : (endSlot l s).slotIndex = s.slotIndex + 1 := (rfl)
@[simp] theorem endSlot_lastLevel : (endSlot l s).lastLevel = lineRead s := (rfl)
@[simp] theorem endSlot_counter : (endSlot l s).counter = 0 := (rfl)
@[simp] theorem endSlot_bitCursor : (endSlot l s).bitCursor = s.bitCursor := (rfl)
@[simp] theorem endSlot_buf : (endSlot l s).buf = s.buf := (rfl)
@[simp] theorem endSlot_timer : (endSlot l s).timer = s.timer := (rfl)
@[simp] theorem endSlot_pin : (endSlot l s).pin = s.pin := (rfl)
@[simp] theorem endSlot_lineOe : (endSlot l s).lineOe = s.lineOe := (rfl)
@[simp] theorem endSlot_lineOut : (endSlot l s).lineOut = s.lineOut := (rfl)
@[simp] theorem endSlot_timeout : (endSlot l s).timeout = s.timeout := (rfl)
@[simp] theorem endSlot_overrun : (endSlot l s).overrun = s.overrun := (rfl)
@[simp] theorem endSlot_done : (endSlot l s).done = s.done := (rfl)
@[simp] theorem endSlot_status : (endSlot l s).status = s.status := (rfl)
@[simp] theorem endSlot_humidity : (endSlot l s).humidity = s.humidity := (rfl)
@[simp] theorem endSlot_temperature : (endSlot l s).temperature = s.temperature := (rfl)
@[simp] theorem endSlot_params : (endSlot l s).params = s.params := (rfl)
@[simp] theorem endSlot_script : (endSlot l s).script = s.script := (rfl)
@[simp] theorem endSlot_tick : (endSlot l s).tick = s.tick := (rfl)

end

/-! ### finishRead -/

section
variable (s : State) (c : Status)

@[simp] theorem finishRead_phase : (finishRead c s).phase = Phase.idle := (rfl)
@[simp] theorem finishRead_slotIndex : (finishRead c s).slotIndex = s.slotIndex := (rfl)
@[simp] theorem finishRead_lastLevel : (finishRead c s).lastLevel = s.lastLevel := (rfl)
@[simp] theorem finishRead_counter : (finishRead c s).counter = s.counter := (rfl)
@[simp] theorem finishRead_bitCursor : (finishRead c s).bitCursor = s.bitCursor := (rfl)
@[simp] theorem finishRead_buf : (finishRead c s).buf = s.buf := (rfl)
@[simp] theorem finishRead_timer : (finishRead c s).timer = s.timer := (rfl)
@[simp] theorem finishRead_pin : (finishRead c s).pin = 0 := (rfl)
@[simp] theorem finishRead_lineOe : (finishRead c s).lineOe = s.lineOe := (rfl)
@[simp] theorem finishRead_lineOut : (finishRead c s).lineOut = s.lineOut := (rfl)
@[simp] theorem finishRead_timeout : (finishRead c s).timeout = s.timeout := (rfl)
@[simp] theorem finishRead_overrun : (finishRead c s).overrun = s.overrun := (rfl)
@[simp] theorem finishRead_done : (finishRead c s).done = true := (rfl)
@[simp] theorem finishRead_status : (finishRead c s).status = c := (rfl)
@[simp] theorem finishRead_humidity : (finishRead c s).humidity = s.humidity := (rfl)
@[simp] theorem finishRead_temperature : (finishRead c s).temperature = s.temperature := (rfl)
@[simp] theorem finishRead_params : (finishRead c s).params = s.params := (rfl)
@[simp] theorem finishRead_script : (finishRead c s).script = s.script := (rfl)
@[simp] theorem finishRead_tick : (finishRead c s).tick = s.tick := (rfl)

end

/-! ### clearCapture -/

section
variable (s : State)

@[simp] theorem clearCapture_phase : (clearCapture s).phase = s.phase := (rfl)
@[simp] theorem clearCapture_slotIndex : (clearCapture s).slotIndex = 0 := (rfl)
@[simp] theorem clearCapture_lastLevel : (clearCapture s).lastLevel = Level.high := (rfl)
@[simp] theorem clearCapture_counter : (clearCapture s).counter = 0 := (rfl)
@[simp] theorem clearCapture_bitCursor : (clearCapture s).bitCursor = 0 := (rfl)
@[simp] theorem clearCapture_buf : (clearCapture s).buf = [] := (rfl)
@[simp] theorem clearCapture_timer : (clearCapture s).timer = 0 := (rfl)
@[simp] theorem clearCapture_pin : (clearCapture s).pin = s.pin := (rfl)
@[simp] theorem clearCapture_lineOe : (clearCapture s).lineOe = s.lineOe := (rfl)
@[simp] theorem clearCapture_lineOut : (clearCapture s).lineOut = Level.high := (rfl)
@[simp] theorem clearCapture_timeout : (clearCapture s).timeout = false := (rfl)
@[simp] theorem clearCapture_overrun : (clearCapture s).overrun = false := (rfl)
@[simp] theorem clearCapture_done : (clearCapture s).done = false := (rfl)
@[simp] theorem clearCapture_status : (clearCapture s).status = Status.none := (rfl)
@[simp] theorem clearCapture_humidity : (clearCapture s).humidity = 0 := (rfl)
@[simp] theorem clearCapture_temperature : (clearCapture s).temperature = 0 := (rfl)
@[simp] theorem clearCapture_params : (clearCapture s).params = s.params := (rfl)
@[simp] theorem clearCapture_script : (clearCapture s).script = s.script := (rfl)
@[simp] theorem clearCapture_tick : (clearCapture s).tick = s.tick := (rfl)

end

end Sys2Proof.Machine
end

