-- ==== Sys2Proof/Laws/Ops.lean ====
section
/-! SUPPORT. One lemma per shared operation, saying everything it can do: the data space, the input ports, and
the end of a data slot. -/

namespace Sys2Proof.Machine

/-! ### The data space -/

theorem memRead_of_lt {k : Nat} (h : k < 5) (s : State) : memRead k s = .ok (s.buf.read k) := by
  simp [memRead, Config.nBytes, h]

theorem memWrite_of_lt {k : Nat} (h : k < 5) (v : Byte) (s : State) :
    memWrite k v s = .ok (s.setByte k v) := by
  simp [memWrite, Config.nBytes, h]

theorem memRead_of_ge {k : Nat} (h : 5 ≤ k) (s : State) : memRead k s = .error (.noSuchByte k) := by
  simp [memRead, Config.nBytes, Nat.not_lt.mpr h]

/-- `bit_cursor[5:3]` is the cursor divided by 8. -/
theorem byteIndex_eq (c : BitVec 6) : byteIndex c = c.toNat / 8 := by
  have h := c.isLt
  simp only [byteIndex, BitVec.extractLsb'_toNat, Nat.shiftRight_eq_div_pow]
  omega

/-- The byte index is an address of the data space exactly while the cursor is below 40. -/
theorem byteIndex_lt_iff (c : BitVec 6) : byteIndex c < 5 ↔ c.toNat < 40 := by
  rw [byteIndex_eq]
  omega

/-- A shifted-in bit doubles the byte modulo 256 and adds the bit. -/
theorem shiftIn_toNat (v : Byte) (b : Bool) : (shiftIn v b).toNat = 2 * v.toNat % 256 + b.toNat := by
  revert b
  revert v
  decide

theorem shiftIn_getLsbD (v : Byte) (b : Bool) (i : Nat) :
    (shiftIn v b).getLsbD i = if i = 0 then b else decide (i < 8) && v.getLsbD (i - 1) := by
  unfold shiftIn
  rw [BitVec.getLsbD_append]
  by_cases h : i = 0
  · subst h
    simp
  · have : ¬ i < 1 := by omega
    have : decide (i - 1 < 7) = decide (i < 8) := by
      by_cases h8 : i < 8
      · simp [h8]
        omega
      · simp [h8]
        omega
    simp [h, this]

/-- A data slot that ends while the cursor is below 40: one byte written, the cursor advanced, the slot
ended. -/
theorem edgeBit_of_lt {s : State} (h : s.bitCursor.toNat < 40) (b l : Bool) :
    edgeBit b l s = .next (endSlot l { s.setByte (byteIndex s.bitCursor)
      (shiftIn (s.buf.read (byteIndex s.bitCursor)) b) with bitCursor := s.bitCursor + 1 }) := by
  have hk := (byteIndex_lt_iff _).mpr h
  simp [edgeBit, packBit, memRead_of_lt hk, memWrite_of_lt hk]

/-- A data slot that ends with the cursor at 40 or more has no byte to go to. -/
theorem edgeBit_of_ge {s : State} (h : 40 ≤ s.bitCursor.toNat) (b l : Bool) :
    edgeBit b l s = .fault (.noSuchByte (byteIndex s.bitCursor)) := by
  have hk : 5 ≤ byteIndex s.bitCursor := by
    have := byteIndex_lt_iff s.bitCursor
    omega
  simp [edgeBit, packBit, memRead_of_ge hk]

/-! ### The input ports -/

@[simp] theorem withInputs_inputs (s : State) (i : TickInputs) : (s.withInputs i).inputs = i := rfl

theorem inputAt_zero (s : State) : s.inputAt 0 = s.inputs := rfl

/-- The inputs of the next tick come up. -/
@[simp] theorem nextTick_inputAt (s : State) (j : Nat) : s.nextTick.inputAt j = s.inputAt (j + 1) := by
  have ht : s.tick + 1 + j = s.tick + (j + 1) := by omega
  cases h : s.script <;> simp [State.inputAt, State.nextTick, h, ht]

/-- The inputs are a function of the script and the tick alone. -/
theorem inputAt_congr {s t : State} (hs : t.script = s.script) (ht : t.tick = s.tick) (j : Nat) :
    t.inputAt j = s.inputAt j := by
  simp [State.inputAt, hs, ht]

end Sys2Proof.Machine
end

