-- ==== Sys2Proof/Laws/Select.lean ====
section
/-! SUPPORT. Reading the selector word back gives the fields it was made of, so that the operation of a tick is
read off the conditions; and what a tick can do, said once. -/

namespace Sys2Proof

@[simp] theorem Phase.ofCode_code (p : Phase) : Phase.ofCode p.code = p := by
  cases p <;> rfl

/-- Bit by bit, the word holds the fields where R98 puts them. -/
theorem Selector.word_getLsbD (f : Selector) (i : Nat) : f.word.getLsbD i =
    if i = 0 then f.lastslot else if i = 1 then f.sumok else if i = 2 then f.wide
    else if i = 3 then f.full else if i = 4 then f.data else if i = 5 then f.ceil
    else if i = 6 then f.same else if i = 7 then f.tdone else if i = 8 then f.start
    else if i < 12 then f.phase.code.getLsbD (i - 9) else decide (i = 12) && f.rst := by
  by_cases h : i < 13
  · change @BitVec.getLsbD (1 + 3 + 1 + 1 + 1 + 1 + 1 + 1 + 1 + 1 + 1)
      (BitVec.ofBool f.rst ++ f.phase.code ++ BitVec.ofBool f.start ++ BitVec.ofBool f.tdone
        ++ BitVec.ofBool f.same ++ BitVec.ofBool f.ceil ++ BitVec.ofBool f.data
        ++ BitVec.ofBool f.full ++ BitVec.ofBool f.wide ++ BitVec.ofBool f.sumok
        ++ BitVec.ofBool f.lastslot) i = _
    simp only [BitVec.getLsbD_append]
    interval_cases i <;> simp
  · rw [BitVec.getLsbD_of_ge _ _ (by omega)]
    repeat rw [if_neg (by omega)]
    simp
    omega

@[simp] theorem Selector.ofWord_word (f : Selector) : Selector.ofWord f.word = f := by
  have hp : f.word.extractLsb' 9 3 = f.phase.code := by
    apply BitVec.eq_of_getLsbD_eq
    intro i hi
    rw [BitVec.getLsbD_extractLsb', Selector.word_getLsbD]
    interval_cases i <;> simp
  unfold Selector.ofWord
  rw [hp]
  simp only [Selector.word_getLsbD]
  simp

namespace Machine

/-- The operation of a tick is the one its condition bits select. -/
theorem operationAt_eq (s : State) : operationAt s = (selector s).operation := by
  simp [operationAt, fetchSel, decodeSel]

/-- What a tick can do: its operation's effect, and then the next tick's inputs. -/
theorem step_next_iff {s t : State} :
    step s = .next t ↔ ∃ u, exec (operationAt s) s = .next u ∧ t = u.nextTick := by
  unfold step
  cases exec (operationAt s) s <;> simp [eq_comm]

theorem step_of_exec {s u : State} (h : exec (operationAt s) s = .next u) :
    step s = .next u.nextTick :=
  step_next_iff.mpr ⟨u, h, rfl⟩

end Machine

end Sys2Proof
end

