-- ==== Sys2Proof/Laws/Conditions.lean ====
section
/-! SUPPORT. Each condition bit in terms of the registers (30_encoding.md R99), and from them the operation of a
tick, said once for all states. -/

namespace Sys2Proof.Machine

theorem condTdone_iff (s : State) : condTdone s = true ↔
    (s.phase = .sWarmup ∧ s.timer.toNat = s.params.nWarmup - 1) ∨
    (s.phase = .sTrigger ∧ s.timer.toNat = s.params.nTrigger - 1) := by
  simp [condTdone, Params.nWarmup, Params.nTrigger, BitVec.toNat_eq]

theorem condSame_iff (s : State) : condSame s = true ↔ s.inputs.lineIn = s.lastLevel := by
  simp [condSame, lineRead]

theorem condCeil_iff (s : State) : condCeil s = true ↔ s.counter.toNat = 254 := by
  simp [condCeil]

theorem condData_iff (s : State) : condData s = true ↔
    4 ≤ s.slotIndex.toNat ∧ s.slotIndex.toNat % 2 = 0 := by
  simp [condData, BitVec.getElem_eq_testBit_toNat, Nat.testBit_zero]

theorem condFull_iff (s : State) : condFull s = true ↔ 40 ≤ s.bitCursor.toNat := by
  simp [condFull]

theorem condWide_iff (s : State) : condWide s = true ↔ 16 < s.counter.toNat := by
  simp [condWide, classify]

theorem condSumok_iff (s : State) : condSumok s = true ↔
    (s.buf.read 4).toNat = byteSum s.buf % 256 := by
  simp [condSumok, checksum, byteSum, BitVec.toNat_eq]

theorem condLastslot_eq (s : State) : condLastslot s = decide (s.slotIndex.toNat = 84) := by
  rw [Bool.eq_iff_iff]
  simp [condLastslot]

/-- The operation of a tick, from the inputs and the registers. -/
theorem operationAt_of_registers (s : State) : operationAt s =
    if s.inputs.rst then .reset
    else match s.phase with
    | .idle => if s.inputs.start then .read else .idle
    | .sModeOut => .startModeOut
    | .sHigh => .startHigh
    | .sWarmup => if s.timer.toNat = s.params.nWarmup - 1 then .startLow else .warmupWait
    | .sTrigger => if s.timer.toNat = s.params.nTrigger - 1 then .startRelease else .triggerWait
    | .sample =>
      if s.inputs.lineIn = s.lastLevel then
        (if s.counter.toNat = 254 then .pollTimeout else .pollSame)
      else if ¬ (4 ≤ s.slotIndex.toNat ∧ s.slotIndex.toNat % 2 = 0) then
        .edgeSkip (decide (s.slotIndex.toNat = 84))
      else if 40 ≤ s.bitCursor.toNat then .edgeOverrun (decide (s.slotIndex.toNat = 84))
      else if 16 < s.counter.toNat then .edgeBit1 (decide (s.slotIndex.toNat = 84))
      else .edgeBit0 (decide (s.slotIndex.toNat = 84))
    | .validate =>
      if s.bitCursor.toNat < 40 then .validateShort
      else if (s.buf.read 4).toNat = byteSum s.buf % 256 then .validateOk
      else .validateBadsum
    | .illegal => .illegalPhase := by
  have hd : condTdone s = true ↔ _ := condTdone_iff s
  rw [operationAt_eq, Selector.operation]
  simp only [selector, condLastslot_eq, condCeil_iff, condSame_iff, condFull_iff, condWide_iff,
    condSumok_iff]
  cases s.inputs.rst <;> simp
  cases hp : s.phase <;> simp
  · simp [hp] at hd
    simp [hd]
  · simp [hp] at hd
    simp [hd]
  · by_cases hl : s.inputs.lineIn = s.lastLevel <;> simp [hl]
    have hc := condData_iff s
    by_cases h : condData s = true
    · simp [h, hc.mp h]
    · have hn : ¬ (4 ≤ s.slotIndex.toNat ∧ s.slotIndex.toNat % 2 = 0) := fun g => h (hc.mpr g)
      simp [h]
      intro a b
      exact absurd ⟨a, b⟩ hn
  · have hf : condFull s = false ↔ s.bitCursor.toNat < 40 := by
      rw [← Bool.not_eq_true, condFull_iff]
      omega
    simp [hf]

end Sys2Proof.Machine
end

