-- ==== Sys2Proof/Laws/PerInstr.lean ====
section
/-! SUPPORT. Per operation: its encoded word lies in its own row of the operation table and in no other
(30_encoding.md R100). -/

namespace Sys2Proof.Laws.TableRow

/-- The rows the operation's encoded word matches are its own row alone, and bit 0 is its field `l`. -/
def Statement (i : Instr) : Prop :=
  (selTable.filter fun r => r.hits (encode i)).map
    (fun r => r.instr.withLast ((encode i).getLsbD 0)) = [i]

theorem reset : Statement .reset := by
  unfold Statement
  decide

theorem idle : Statement .idle := by
  unfold Statement
  decide

theorem read : Statement .read := by
  unfold Statement
  decide

theorem startModeOut : Statement .startModeOut := by
  unfold Statement
  decide

theorem startHigh : Statement .startHigh := by
  unfold Statement
  decide

theorem warmupWait : Statement .warmupWait := by
  unfold Statement
  decide

theorem startLow : Statement .startLow := by
  unfold Statement
  decide

theorem triggerWait : Statement .triggerWait := by
  unfold Statement
  decide

theorem startRelease : Statement .startRelease := by
  unfold Statement
  decide

theorem pollSame : Statement .pollSame := by
  unfold Statement
  decide

theorem pollTimeout : Statement .pollTimeout := by
  unfold Statement
  decide

theorem edgeSkip (lastslot : Bool) : Statement (.edgeSkip lastslot) := by
  unfold Statement
  cases lastslot <;> decide

theorem edgeBit0 (lastslot : Bool) : Statement (.edgeBit0 lastslot) := by
  unfold Statement
  cases lastslot <;> decide

theorem edgeBit1 (lastslot : Bool) : Statement (.edgeBit1 lastslot) := by
  unfold Statement
  cases lastslot <;> decide

theorem edgeOverrun (lastslot : Bool) : Statement (.edgeOverrun lastslot) := by
  unfold Statement
  cases lastslot <;> decide

theorem validateOk : Statement .validateOk := by
  unfold Statement
  decide

theorem validateBadsum : Statement .validateBadsum := by
  unfold Statement
  decide

theorem validateShort : Statement .validateShort := by
  unfold Statement
  decide

theorem illegalPhase : Statement .illegalPhase := by
  unfold Statement
  decide

end Sys2Proof.Laws.TableRow
end

