-- ==== Sys2Proof/Laws/Run.lean ====
section
/-! SUPPORT. Runs of several ticks (Host.Core.run): one tick more, and two runs in a row. -/

namespace Sys2Proof.Machine

theorem run_zero (s : State) : Host.Core.run core 0 s = .next s := rfl

/-- A run of n + 1 ticks is a tick and then a run of n. -/
theorem run_succ {s t : State} (h : step s = .next t) (n : Nat) :
    Host.Core.run core (n + 1) s = Host.Core.run core n t := by
  have hs : core.step s = Host.Outcome.next t := h
  simp only [Host.Core.run, hs]

/-- Two runs in a row are one run. -/
theorem run_add {m : Nat} {s t : State} (h : Host.Core.run core m s = .next t) (n : Nat) :
    Host.Core.run core (m + n) s = Host.Core.run core n t := by
  induction m generalizing s with
  | zero =>
    cases h
    rw [Nat.zero_add]
  | succ m ih =>
    rw [Nat.add_right_comm]
    cases hs : step s with
    | next u =>
      rw [run_succ hs] at h ⊢
      exact ih h
    | fault r =>
      have hs : core.step s = Host.Outcome.fault r := hs
      simp [Host.Core.run, hs] at h
    | refused r =>
      have hs : core.step s = Host.Outcome.refused r := hs
      simp [Host.Core.run, hs] at h

end Sys2Proof.Machine
end

