-- ==== Sys2Proof/Tests/Slice0.lean ====
section
/-! SUPPORT. Tests of one tick each, their expected values taken from spec/95_test_vectors.md (the vector is
named in each comment) or by hand from the rule named; and for each statement with hypotheses a witness that
meets them. -/

namespace Sys2Proof.Tests

open Sys2Proof.Machine

/-! ### Helpers -/

/-- Small parameters: N_WARMUP = 5 and N_TRIGGER = 3 as in 95_test_vectors.md S2, eight pin wires. -/
def smallParams : Params := { warmupLast := 4, triggerLast := 2, pinW := 8, errMode := .distinct }

/-- The reset state with the small parameters and this tick's inputs. -/
def idleWith (i : TickInputs) : State := { State.reset with params := smallParams, script := [i] }

/-- The state a tick leads to, if it leads to one. -/
def tickOf (s : State) : Option State :=
  match step s with
  | .next t => some t
  | .fault _ => none
  | .refused _ => none

/-- A state of phase SAMPLE that waits in slot `k` for a level to end, with a count and a cursor. -/
def sampling (k : BitVec 7) (l : Level) (c : BitVec 8) (b : BitVec 6) (m : Memory) (line : Level) : State :=
  { idleWith (sampleTick line) with
    phase := .sample
    slotIndex := k
    lastLevel := l
    counter := c
    bitCursor := b
    buf := m
    lineOut := .low }

/-- A state of phase VALIDATE after a timeout in slot 84, with a cursor and a buffer. -/
def validating (b : BitVec 6) (m : Memory) : State :=
  { idleWith (sampleTick .high) with
    phase := .validate
    slotIndex := 84
    counter := 255
    timeout := true
    bitCursor := b
    buf := m
    pin := 7
    lineOut := .low }

/-! ### Well-formedness -/

theorem test_wf_refuses_edgeSkip_lastslot : (Instr.edgeSkip true).wf = false := by decide
theorem test_wf_accepts_edgeSkip : (Instr.edgeSkip false).wf = true := by decide

/-! ### Decoding: the words written bit by bit from the patterns of R100, free bits at 0 -/

theorem test_decode_command_words :
    decodeSel 0b1000000000000#13 = .reset ∧ decodeSel 0b0000000000000#13 = .idle ∧
    decodeSel 0b0000100000000#13 = .read ∧ decodeSel 0b0001000000000#13 = .startModeOut ∧
    decodeSel 0b0010000000000#13 = .startHigh ∧ decodeSel 0b0011000000000#13 = .warmupWait ∧
    decodeSel 0b0011010000000#13 = .startLow ∧ decodeSel 0b0100000000000#13 = .triggerWait ∧
    decodeSel 0b0100010000000#13 = .startRelease := by decide

theorem test_decode_sampler_words :
    decodeSel 0b0101001000000#13 = .pollSame ∧ decodeSel 0b0101001100000#13 = .pollTimeout ∧
    decodeSel 0b0101000000000#13 = .edgeSkip false ∧ decodeSel 0b0101000000001#13 = .edgeSkip true ∧
    decodeSel 0b0101000010000#13 = .edgeBit0 false ∧ decodeSel 0b0101000010001#13 = .edgeBit0 true ∧
    decodeSel 0b0101000010100#13 = .edgeBit1 false ∧ decodeSel 0b0101000010101#13 = .edgeBit1 true ∧
    decodeSel 0b0101000011000#13 = .edgeOverrun false ∧
    decodeSel 0b0101000011001#13 = .edgeOverrun true := by decide

theorem test_decode_validator_words :
    decodeSel 0b0110000001010#13 = .validateOk ∧ decodeSel 0b0110000001000#13 = .validateBadsum ∧
    decodeSel 0b0110000000000#13 = .validateShort ∧
    decodeSel 0b0111000000000#13 = .illegalPhase := by decide

/-- The same patterns with every free bit at 1 (and `l` at 1). -/
theorem test_decode_free_bits :
    decodeSel 0b1111111111111#13 = .reset ∧ decodeSel 0b0000011111111#13 = .idle ∧
    decodeSel 0b0000111111111#13 = .read ∧ decodeSel 0b0001111111111#13 = .startModeOut ∧
    decodeSel 0b0010111111111#13 = .startHigh ∧ decodeSel 0b0011101111111#13 = .warmupWait ∧
    decodeSel 0b0011111111111#13 = .startLow ∧ decodeSel 0b0100101111111#13 = .triggerWait ∧
    decodeSel 0b0100111111111#13 = .startRelease ∧ decodeSel 0b0101111011111#13 = .pollSame ∧
    decodeSel 0b0101111111111#13 = .pollTimeout ∧ decodeSel 0b0101110101111#13 = .edgeSkip true ∧
    decodeSel 0b0101110110011#13 = .edgeBit0 true ∧ decodeSel 0b0101110110111#13 = .edgeBit1 true ∧
    decodeSel 0b0101110111111#13 = .edgeOverrun true ∧ decodeSel 0b0110111111111#13 = .validateOk ∧
    decodeSel 0b0110111111101#13 = .validateBadsum ∧ decodeSel 0b0110111110111#13 = .validateShort ∧
    decodeSel 0b0111111111111#13 = .illegalPhase := by decide

/-! ### A table word placed is the operation of the next tick (log 10) -/

theorem test_place_command :
    operationAt (State.reset.withFetchWord 16 0x1000) = .reset ∧
    operationAt (State.reset.withFetchWord 16 0x0000) = .idle ∧
    operationAt (State.reset.withFetchWord 16 0x0100) = .read ∧
    operationAt (State.reset.withFetchWord 16 0x0200) = .startModeOut ∧
    operationAt (State.reset.withFetchWord 16 0x0400) = .startHigh ∧
    operationAt (State.reset.withFetchWord 16 0x0600) = .warmupWait ∧
    operationAt (State.reset.withFetchWord 16 0x0680) = .startLow ∧
    operationAt (State.reset.withFetchWord 16 0x0800) = .triggerWait ∧
    operationAt (State.reset.withFetchWord 16 0x0880) = .startRelease := by decide

theorem test_place_read :
    operationAt (State.reset.withFetchWord 16 0x0A40) = .pollSame ∧
    operationAt (State.reset.withFetchWord 16 0x0A60) = .pollTimeout ∧
    operationAt (State.reset.withFetchWord 16 0x0A00) = .edgeSkip false ∧
    operationAt (State.reset.withFetchWord 16 0x0A10) = .edgeBit0 false ∧
    operationAt (State.reset.withFetchWord 16 0x0A15) = .edgeBit1 true ∧
    operationAt (State.reset.withFetchWord 16 0x0A18) = .edgeOverrun false ∧
    operationAt (State.reset.withFetchWord 16 0x0C0A) = .validateOk ∧
    operationAt (State.reset.withFetchWord 16 0x0C08) = .validateBadsum ∧
    operationAt (State.reset.withFetchWord 16 0x0C00) = .validateShort ∧
    operationAt (State.reset.withFetchWord 16 0x0E00) = .illegalPhase := by decide

theorem test_placed_words_run :
    [0x1000, 0x0000, 0x0100, 0x0200, 0x0400, 0x0600, 0x0680, 0x0800, 0x0880, 0x0A40, 0x0A60, 0x0A00,
      0x0A10, 0x0A14, 0x0A18, 0x0C0A, 0x0C08, 0x0C00, 0x0E00].all
      (fun w => (tickOf (State.reset.withFetchWord 16 w)).isSome) = true := by decide

/-! ### Reset, the command, the start sequence -/

/-- S1. -/
theorem test_idle : (tickOf (idleWith (sampleTick .low))).map
    (fun t => (t.phase, t.done, t.lineOe)) = some (.idle, false, .input) := by decide

/-- S2, tick 0. -/
theorem test_read : (tickOf (idleWith (commandTick 7))).map
    (fun t => (t.phase, t.pin, t.lineOe, t.lineOut)) = some (.sModeOut, 7, .input, .high) := by decide

/-- The state the accepted read of V1 leaves, with a command on the ports (S6). -/
def afterOk : State :=
  { idleWith (commandTick 4) with
    status := .ok, humidity := 0x32, temperature := 0x1B, done := true, timeout := true, counter := 255,
    buf := [(0, 0x32), (2, 0x1B), (4, 0x4D)], bitCursor := 40, slotIndex := 84, lineOut := .low }

/-- S6: READ erases the capture of the read before. -/
theorem test_read_after_read :
    (tickOf afterOk).map (fun t => (t.pin, t.buf, t.bitCursor, t.slotIndex)) = some (4, [], 0, 0) := by
  decide

/-- S6: READ erases the result of the read before. -/
theorem test_read_after_read_result :
    (tickOf afterOk).map (fun t => (t.counter, t.timeout, t.done, result t))
      = some (0, false, false, none) := by decide

/-- S2, tick 1. -/
theorem test_startModeOut :
    (tickOf { idleWith (sampleTick .low) with phase := .sModeOut }).map
      (fun t => (t.phase, t.lineOe, t.lineOut)) = some (.sHigh, .output, .high) := by decide

/-- S2, tick 2; and S5: a command there is ignored. -/
theorem test_startHigh :
    (tickOf { idleWith (commandTick 3) with phase := .sHigh, pin := 7, timer := 9 }).map
      (fun t => (t.phase, t.timer, t.lineOut, t.pin)) = some (.sWarmup, 0, .high, 7) := by decide

/-- S2, ticks 3 and 6. -/
theorem test_warmupWait :
    (tickOf { idleWith (sampleTick .low) with phase := .sWarmup, timer := 3 }).map
      (fun t => (t.phase, t.timer)) = some (.sWarmup, 4) := by decide

/-- S2, tick 7. -/
theorem test_startLow :
    (tickOf { idleWith (sampleTick .low) with phase := .sWarmup, timer := 4 }).map
      (fun t => (t.phase, t.timer, t.lineOut)) = some (.sTrigger, 0, .low) := by decide

/-- S2, tick 8. -/
theorem test_triggerWait :
    (tickOf { idleWith (sampleTick .low) with phase := .sTrigger, timer := 0 }).map
      (fun t => (t.phase, t.timer)) = some (.sTrigger, 1) := by decide

/-- S2, tick 10. -/
theorem test_startRelease :
    (tickOf { idleWith (sampleTick .low) with
      phase := .sTrigger, timer := 2, lineOe := .output, lineOut := .low }).map
      (fun t => (t.phase, t.timer, t.lineOe, t.lineOut)) = some (.sample, 0, .input, .low) := by decide

/-- Z1: a reset at tick 2 of S2. -/
theorem test_reset_in_start :
    (tickOf { idleWith { sampleTick .low with rst := true } with
      phase := .sHigh, lineOe := .output, pin := 7 }).map
      (fun t => (t.phase, t.lineOe, t.lineOut, t.pin, t.done, t.status))
      = some (.idle, .input, .high, 0, false, .none) := by decide

/-- Z2: reset beats the command. -/
theorem test_reset_beats_start :
    (tickOf (idleWith { commandTick 4 with rst := true })).map (fun t => (t.phase, t.pin))
      = some (.idle, 0) := by decide

/-- Z4. -/
theorem test_illegalPhase :
    (tickOf { idleWith (sampleTick .low) with
      phase := .illegal, lineOe := .output, counter := 9 }).map
      (fun t => (t.phase, t.lineOe, t.counter)) = some (.idle, .input, 9) := by decide

/-! ### The sampler -/

/-- E8. -/
theorem test_pollSame :
    (tickOf (sampling 1 .low 0 0 [] .low)).map (fun t => (t.counter, t.slotIndex, t.phase))
      = some (1, 1, .sample) := by decide

/-- R141, the last count below the ceiling: 253 goes to 254. -/
theorem test_pollSame_to_254 :
    (tickOf (sampling 1 .low 253 0 [] .low)).map (fun t => (t.counter, t.timeout))
      = some (254, false) := by decide

/-- E9: a timeout in a data slot packs no bit. -/
theorem test_pollTimeout :
    (tickOf (sampling 10 .high 254 3 [(0, 5)] .high)).map
      (fun t => (t.counter, t.timeout, t.phase, t.slotIndex)) = some (255, true, .validate, 10) ∧
    (tickOf (sampling 10 .high 254 3 [(0, 5)] .high)).map
      (fun t => (t.bitCursor, t.buf)) = some (3, [(0, 5)]) := by decide

/-- E10. -/
theorem test_edgeSkip_odd_slot :
    (tickOf (sampling 7 .low 24 2 [(0, 1)] .high)).map
      (fun t => (t.slotIndex, t.lastLevel, t.counter)) = some (8, .high, 0) ∧
    (tickOf (sampling 7 .low 24 2 [(0, 1)] .high)).map
      (fun t => (t.bitCursor, t.buf)) = some (2, [(0, 1)]) := by decide

/-- R91: slot 2 is even and below 4, so it carries no bit. -/
theorem test_edgeSkip_slot_2 :
    (tickOf (sampling 2 .high 39 0 [] .low)).map (fun t => (t.slotIndex, t.bitCursor, t.phase))
      = some (3, 0, .sample) := by decide

/-! ### The assembler -/

/-- A1, with T4's count 16: the last bit of byte 0. -/
theorem test_edgeBit0 :
    (tickOf (sampling 18 .high 16 7 [(0, 0x58)] .low)).map
      (fun t => (t.buf, t.bitCursor, t.slotIndex, t.counter))
      = some ([(0, 0xB0)], 8, 19, 0) := by decide

/-- A byte shifted from 0 with a 0 stays unlisted: the canonical form. -/
theorem test_edgeBit0_zero :
    (tickOf (sampling 4 .high 12 0 [] .low)).map (fun t => (t.buf, t.bitCursor))
      = some ([], 1) := by decide

/-- A2, with T4's count 17. -/
theorem test_edgeBit1 :
    (tickOf (sampling 20 .high 17 8 [(0, 0xB0)] .low)).map (fun t => (t.buf, t.bitCursor))
      = some ([(0, 0xB0), (1, 0x01)], 9) := by decide

/-- A3: the 40th bit; the sampling goes on. -/
theorem test_edgeBit1_last :
    (tickOf (sampling 82 .high 34 39 [(0, 0x32), (2, 0x1B), (4, 0x26)] .low)).map
      (fun t => (t.buf, t.bitCursor, t.slotIndex, t.phase))
      = some ([(0, 0x32), (2, 0x1B), (4, 0x4D)], 40, 83, .sample) := by decide

/-- A6. -/
theorem test_edgeOverrun :
    (tickOf (sampling 84 .high 12 40 [(4, 0x4D)] .low)).map
      (fun t => (t.overrun, t.slotIndex, t.counter, t.phase)) = some (true, 85, 0, .validate) ∧
    (tickOf (sampling 84 .high 12 40 [(4, 0x4D)] .low)).map
      (fun t => (t.bitCursor, t.lastLevel, t.buf)) = some (41, .low, [(4, 0x4D)]) := by decide

/-- A7: the width is ignored. -/
theorem test_edgeOverrun_wide :
    (tickOf (sampling 84 .high 200 40 [] .low)).map (fun t => (t.overrun, t.bitCursor, t.buf))
      = some (true, 41, []) := by decide

/-! ### The validator -/

/-- V1. -/
theorem test_validateOk :
    (tickOf (validating 40 [(0, 0x32), (2, 0x1B), (4, 0x4D)])).map
      (fun t => (result t, t.done, t.pin, t.phase, t.counter))
      = some (some (.ok 50 27), true, 0, .idle, 255) := by decide

/-- V8: bytes 1 and 3 count in the sum and not in the result; V4: carries are dropped. -/
theorem test_validateOk_sum :
    (tickOf (validating 40 [(0, 0x28), (1, 0x05), (2, 0x19), (3, 0x03), (4, 0x49)])).map result
      = some (some (.ok 40 25)) ∧
    (tickOf (validating 40 [(0, 0xFF), (1, 0xFF), (2, 0xFF), (3, 0xFF), (4, 0xFC)])).map result
      = some (some (.ok 255 255)) := by decide

/-- V2. -/
theorem test_validateBadsum :
    (tickOf (validating 40 [(0, 0x32), (2, 0x1B)])).map
      (fun t => (result t, t.humidity, t.temperature, t.done))
      = some (some (.err .checksumMismatch), 0, 0, true) := by decide

/-- V12 and X1, `distinct`: the equation holds and the capture is short. -/
theorem test_validateShort :
    (tickOf { validating 0 [] with slotIndex := 0 }).map (fun t => (result t, t.done, t.phase))
      = some (some (.err .incompleteCapture), true, .idle) := by decide

/-- V10, `combined`. -/
theorem test_validateShort_combined :
    (tickOf { validating 39 [(0, 0x32), (2, 0x1B), (4, 0x26)] with
      params := { smallParams with errMode := .combined } }).map result
      = some (some (.err .checksumMismatch)) := by decide

/-! ### The line's meaning, the ports, the written forms -/

/-- R91: the slots where the roles meet. -/
theorem test_slot_roles :
    slotRole 3 = .response ∧ slotRole 4 = .dataHigh 0 ∧ slotRole 5 = .lowPhase ∧
    slotRole 82 = .dataHigh 39 ∧ slotRole 83 = .lowPhase ∧ slotRole 84 = .extraHigh ∧
    slotRole 85 = .noSlot := by decide

/-- R35: STATUS, field by field from bit 0: busy 0, done 1, status 1, timeout 1, overrun 0, cursor 40, slot 84. -/
theorem test_status_word :
    (tickOf (validating 40 [])).map statusWord = some 0b1010100_101000_0_1_01_1_0#19 := by decide

/-- R33: the four codes of `status` on the port. -/
theorem test_status_codes :
    statusCode .none = 0 ∧ statusCode .ok = 1 ∧ statusCode .checksumMismatch = 2 ∧
    statusCode .incompleteCapture = 3 := by decide

/-- R35: RESULT and RAW of V1. -/
theorem test_result_and_raw_words :
    (tickOf (validating 40 [(0, 0x32), (2, 0x1B), (4, 0x4D)])).map
      (fun t => (resultWord t, rawWord t)) = some (0x1B32, 0x32001B004D) := by decide

/-- R35: a write of 7 · 2 + 1 to CMD is `read(7)`. -/
theorem test_cmd_write : cmdWrite 15 (sampleTick .high) = commandTick 7 := by decide

/-- R106: the script `H2 L1`. -/
theorem test_script : expandRuns [(.high, 2), (.low, 1)] = [.high, .high, .low] := by decide

/-- R148: with a line that goes LOW after three samples, run 0 has 3 samples and run 2, of no sample, 0. -/
theorem test_runs :
    runLength (fun j => if j < 3 then .high else .low) .high 0 20 = 3 ∧
    runLength (fun _ => .low) .high 3 20 = 0 := by decide

/-! ### Witnesses: for each statement with hypotheses, states and operands that meet them -/

/-- A state whose coming `n` ticks all have the inputs `i`. -/
def during (s : State) (n : Nat) (i : TickInputs) : State := { s with script := List.replicate n i }

theorem inputAt_during {n j : Nat} (s : State) (i : TickInputs) (h : j < n) :
    (during s n i).inputAt j = i := by
  simp [during, State.inputAt, h]

/-- A state of the start sequence, the pin 7 latched. -/
def starting (p : Phase) (oe : PinMode) (out : Level) (t : BitVec 16) : State :=
  { idleWith (sampleTick .low) with phase := p, lineOe := oe, lineOut := out, timer := t, pin := 7 }

/-- The 40 bits of V1 with its good checksum, and the same with byte 4 missing. -/
def goodBuf : Memory := [(0, 0x32), (2, 0x1B), (4, 0x4D)]
def badBuf : Memory := [(0, 0x32), (2, 0x1B)]

/-- The state A6 leaves: 41 bits came. -/
def overrunning : State :=
  { validating 41 goodBuf with slotIndex := 85, lastLevel := .low, counter := 0, timeout := false, overrun := true }

/-- The state a read with nothing on the line leaves. -/
def afterShort : State :=
  { validating 0 [] with
    slotIndex := 0, phase := .idle, done := true, status := .incompleteCapture, pin := 0 }

/-- The state a read with a bad checksum leaves. -/
def afterBadsum : State :=
  { validating 40 badBuf with phase := .idle, done := true, status := .checksumMismatch, pin := 0 }

theorem inv_idle : Inv (idleWith (sampleTick .low)) := by
  constructor <;> decide
theorem inv_command : Inv (idleWith (commandTick 7)) := by
  constructor <;> decide
theorem inv_afterOk : Inv afterOk := by
  constructor <;> decide
theorem inv_afterShort : Inv afterShort := by
  constructor <;> decide
theorem inv_afterBadsum : Inv afterBadsum := by
  constructor <;> decide
theorem inv_sModeOut : Inv (starting .sModeOut .input .high 0) := by
  constructor <;> decide
theorem inv_sHigh : Inv (starting .sHigh .output .high 0) := by
  constructor <;> decide
theorem inv_sWarmup : Inv (starting .sWarmup .output .high 4) := by
  constructor <;> decide
theorem inv_sTrigger : Inv (starting .sTrigger .output .low 2) := by
  constructor <;> decide
theorem inv_sample_start : Inv (sampling 0 .high 0 0 [] .high) := by
  constructor <;> decide
theorem inv_sample_253 : Inv (sampling 5 .low 253 1 [(0, 1)] .low) := by
  constructor <;> decide
theorem inv_sample_data : Inv (sampling 4 .high 0 0 [] .low) := by
  constructor <;> decide
theorem inv_sample_last_bit : Inv (sampling 82 .high 0 39 [(0, 0x32), (2, 0x1B), (4, 0x26)] .low) := by
  constructor <;> decide
theorem inv_sample_one : Inv (sampling 82 .high 17 39 [(0, 0x32), (2, 0x1B), (4, 0x26)] .low) := by
  constructor <;> decide
theorem inv_sample_extra : Inv (sampling 84 .high 0 40 goodBuf .low) := by
  constructor <;> decide
theorem inv_validate : Inv (validating 40 goodBuf) := by
  constructor <;> decide
theorem inv_validate_bad : Inv (validating 40 badBuf) := by
  constructor <;> decide
theorem inv_validate_short : Inv { validating 39 [(0, 0x32), (2, 0x1B), (4, 0x26)] with slotIndex := 82 } := by
  constructor <;> decide
theorem inv_overrunning : Inv overrunning := by
  constructor <;> decide

/-- The invariant does not look at the inputs. -/
theorem inv_during {s : State} (h : Inv s) (n : Nat) (i : TickInputs) : Inv (during s n i) := by
  obtain ⟨h1, h2, h3, h4, h5, h6, h7, h8, h9, h10, h11, h12, h13, h14, h15, h16, h17, h18, h19, h20, h21, h22,
    h23, h24, h25, h26⟩ := h
  exact ⟨h1, h2, h3, h4, h5, h6, h7, h8, h9, h10, h11, h12, h13, h14, h15, h16, h17, h18, h19, h20, h21, h22,
    h23, h24, h25, h26⟩

/-! For the selector, the decoder and the step. -/

/-- DecodeEncodeAgree: the lowest and the highest second byte above the selector. -/
theorem meets_DecodeEncodeAgree : 32 ≤ (32 : Byte).toNat ∧ 32 ≤ (255 : Byte).toNat := by decide

/-- ConditionBits: two words of the row of POLL_SAME that differ in every free bit, bit 0 among them, and two
of the row of EDGE_BIT1 that agree in bit 0. -/
theorem meets_ConditionBits :
    (∃ r ∈ selTable, r.hits 0b0101001000000#13 = true ∧ r.hits 0b0101111011111#13 = true ∧
      isEdge r.instr = false) ∧
    ∃ r ∈ selTable, r.hits 0b0101000010101#13 = true ∧ r.hits 0b0101110110111#13 = true ∧
      isEdge r.instr = true ∧ (0b0101000010101#13).getLsbD 0 = (0b0101110110111#13).getLsbD 0 := by decide

/-- StepRunsOperation. -/
theorem meets_StepRunsOperation : decodeSel (fetchSel (sampling 1 .low 0 0 [] .low)) = .pollSame := by decide

/-! For the command and the start sequence. -/

/-- IdleOperation: eleven ticks without a command. -/
theorem meets_IdleOperation :
    let s := during (idleWith (sampleTick .low)) 11 (sampleTick .low)
    s.phase = .idle ∧ ∀ j < 11, (s.inputAt j).rst = false ∧ (s.inputAt j).start = false := by
  refine ⟨rfl, fun j h => ?_⟩
  rw [inputAt_during _ _ h]; exact ⟨rfl, rfl⟩

theorem meets_StartModeOutOperation :
    Inv (starting .sModeOut .input .high 0) ∧ (starting .sModeOut .input .high 0).phase = .sModeOut ∧
    ∃ t, exec .startModeOut (starting .sModeOut .input .high 0) = .next t := ⟨inv_sModeOut, rfl, _, rfl⟩

theorem meets_StartHighOperation :
    Inv (starting .sHigh .output .high 0) ∧ (starting .sHigh .output .high 0).phase = .sHigh := ⟨inv_sHigh, rfl⟩

/-- WarmupHold: the first value of `timer` and the last one below the end of the hold. -/
theorem meets_WarmupHold :
    (starting .sWarmup .output .high 0).timer.toNat < (starting .sWarmup .output .high 0).params.nWarmup - 1 ∧
    (starting .sWarmup .output .high 3).timer.toNat < (starting .sWarmup .output .high 3).params.nWarmup - 1 := by
  decide

/-- TriggerHold: the same. -/
theorem meets_TriggerHold :
    (starting .sTrigger .output .low 0).timer.toNat < (starting .sTrigger .output .low 0).params.nTrigger - 1 ∧
    (starting .sTrigger .output .low 1).timer.toNat < (starting .sTrigger .output .low 1).params.nTrigger - 1 := by
  decide

/-- StartSequenceTrace: a command, no reset, and an n in each of its cases at their ends (N_WARMUP 5,
N_TRIGGER 3). -/
theorem meets_StartSequenceTrace :
    let s := during (idleWith (commandTick 7)) 11 (commandTick 7)
    Inv s ∧ s.phase = .idle ∧ s.inputs.start = true ∧
    (∀ j < s.params.nWarmup + s.params.nTrigger + 3, (s.inputAt j).rst = false) ∧
    ∀ n ∈ [1, 2, 3, 7, 8, 10, 11], 0 < n ∧ n ≤ s.params.nWarmup + s.params.nTrigger + 3 := by
  refine ⟨inv_during inv_command _ _, rfl, rfl, fun j h => ?_, by decide⟩
  exact congrArg TickInputs.rst (inputAt_during (n := 11) _ _ h)

/-! For the sampler and the assembler. -/

/-- PollSameOperation: at the first and the last count. -/
theorem meets_PollSameOperation :
    (Inv (sampling 0 .high 0 0 [] .high) ∧ operationAt (sampling 0 .high 0 0 [] .high) = .pollSame) ∧
    Inv (sampling 5 .low 253 1 [(0, 1)] .low) ∧
    operationAt (sampling 5 .low 253 1 [(0, 1)] .low) = .pollSame :=
  ⟨⟨inv_sample_start, by decide⟩, inv_sample_253, by decide⟩

/-- EdgeSkipOperation: in slots 0, 3, 5 and 83. -/
theorem meets_EdgeSkipOperation :
    operationAt (sampling 0 .high 9 0 [] .low) = .edgeSkip false ∧
    operationAt (sampling 3 .low 9 0 [] .high) = .edgeSkip false ∧
    operationAt (sampling 5 .low 9 1 [] .high) = .edgeSkip false ∧
    operationAt (sampling 83 .low 9 40 [] .high) = .edgeSkip false := by decide

/-- EdgeBit0Operation, ClassificationBoundary: the first and the last bit, at the last count of a 0; a slot 84
with room left, in which `l` is 1; and the first and the last cursor. -/
theorem meets_EdgeBit0Operation :
    operationAt (sampling 4 .high 16 0 [] .low) = .edgeBit0 false ∧
    operationAt (sampling 82 .high 16 39 [] .low) = .edgeBit0 false ∧
    operationAt (sampling 84 .high 0 39 [] .low) = .edgeBit0 true ∧
    (sampling 4 .high 16 0 [] .low).bitCursor.toNat < 40 ∧
    (sampling 82 .high 16 39 [] .low).bitCursor.toNat < 40 := by decide

/-- EdgeBit1Operation, ClassificationBoundary: the same, at the first count of a 1. -/
theorem meets_EdgeBit1Operation :
    operationAt (sampling 4 .high 17 0 [] .low) = .edgeBit1 false ∧
    operationAt (sampling 82 .high 17 39 [] .low) = .edgeBit1 false ∧
    operationAt (sampling 84 .high 254 39 [] .low) = .edgeBit1 true ∧
    (sampling 4 .high 17 0 [] .low).bitCursor.toNat < 40 ∧
    (sampling 82 .high 17 39 [] .low).bitCursor.toNat < 40 := by decide

/-- EdgeBit0Operation and EdgeBit1Operation, in states of the invariant. -/
theorem meets_EdgeBitOperations :
    (Inv (sampling 4 .high 0 0 [] .low) ∧ operationAt (sampling 4 .high 0 0 [] .low) = .edgeBit0 false) ∧
    Inv (sampling 82 .high 17 39 [(0, 0x32), (2, 0x1B), (4, 0x26)] .low) ∧
    operationAt (sampling 82 .high 17 39 [(0, 0x32), (2, 0x1B), (4, 0x26)] .low) = .edgeBit1 false :=
  ⟨⟨inv_sample_data, by decide⟩, inv_sample_one, by decide⟩

/-- EdgeOverrunOperation. -/
theorem meets_EdgeOverrunOperation :
    Inv (sampling 84 .high 0 40 goodBuf .low) ∧
    operationAt (sampling 84 .high 0 40 goodBuf .low) = .edgeOverrun true := ⟨inv_sample_extra, by decide⟩

/-- NoByteBeyondTheBuffer: the first and the last cursor without a byte, and a tick that stores at the last
cursor with one. -/
theorem meets_NoByteBeyondTheBuffer :
    40 ≤ (sampling 84 .high 0 40 [] .low).bitCursor.toNat ∧
    40 ≤ (sampling 84 .high 0 63 [] .low).bitCursor.toNat ∧
    storesBit (operationAt (sampling 82 .high 17 39 [] .low)) = true := by decide

/-- PackingAppendsTheBit: the first bit and the last one, of either value. -/
theorem meets_PackingAppendsTheBit :
    ∀ s ∈ [sampling 4 .high 16 0 [] .low, sampling 82 .high 17 39 [(0, 0x32), (2, 0x1B), (4, 0x26)] .low],
      s.bitCursor.toNat < 40 ∧ (∃ t, exec (.edgeBit0 false) s = .next t) ∧
      ∃ t, exec (.edgeBit1 false) s = .next t := by
  intro s h
  fin_cases h <;> exact ⟨by decide, ⟨_, rfl⟩, _, rfl⟩

/-- CompleteFrameIsTheBits: 40 bits and the 41 of an overrun, byte 0 and byte 4. -/
theorem meets_CompleteFrameIsTheBits : 40 ≤ 40 ∧ 40 ≤ 41 ∧ 0 < 5 ∧ 4 < 5 := by decide

/-- A state of phase SAMPLE at the beginning of a slot, with `c` samples equal to `last_level` and then a
different one. -/
def slotOf (s : State) (c : Nat) (l m : Level) : State :=
  { s with script := List.replicate c (sampleTick l) ++ [sampleTick m] }

theorem inv_slotOf {s : State} (h : Inv s) (c : Nat) (l m : Level) : Inv (slotOf s c l m) := by
  obtain ⟨h1, h2, h3, h4, h5, h6, h7, h8, h9, h10, h11, h12, h13, h14, h15, h16, h17, h18, h19, h20, h21, h22,
    h23, h24, h25, h26⟩ := h
  exact ⟨h1, h2, h3, h4, h5, h6, h7, h8, h9, h10, h11, h12, h13, h14, h15, h16, h17, h18, h19, h20, h21, h22,
    h23, h24, h25, h26⟩

theorem slotOf_inputs (s : State) (c : Nat) (l m : Level) :
    (∀ j < c, ((slotOf s c l m).inputAt j).lineIn = l) ∧ ((slotOf s c l m).inputAt c).lineIn = m ∧
    ∀ j ≤ c, ((slotOf s c l m).inputAt j).rst = false := by
  refine ⟨fun j h => ?_, ?_, fun j h => ?_⟩
  · simp [slotOf, State.inputAt, List.getElem?_append, h, sampleTick]
  · simp [slotOf, State.inputAt, sampleTick]
  · rcases Nat.lt_or_eq_of_le h with h | rfl
    · simp [slotOf, State.inputAt, List.getElem?_append, h, sampleTick]
    · simp [slotOf, State.inputAt, sampleTick]

/-- SlotEndsWithItsCount: the counts 0, 16, 17 and 254, in the first slot that carries no bit, in the first and
the last data slot and in slot 84. -/
theorem meets_SlotEndsWithItsCount :
    ∀ s ∈ [sampling 0 .high 0 0 [] .high, sampling 4 .high 0 0 [] .low,
        sampling 82 .high 0 39 [(0, 0x32), (2, 0x1B), (4, 0x26)] .low, sampling 84 .high 0 40 goodBuf .low],
      ∀ c ∈ [0, 16, 17, 254],
        let u := slotOf s c .high .low
        Inv u ∧ u.phase = .sample ∧ u.counter = 0 ∧ c ≤ 254 ∧
        (∀ j < c, (u.inputAt j).lineIn = u.lastLevel) ∧ (u.inputAt c).lineIn ≠ u.lastLevel ∧
        ∀ j ≤ c, (u.inputAt j).rst = false := by
  intro s hs c hc
  obtain ⟨h1, h2, h3⟩ := slotOf_inputs s c .high .low
  have hc' : c ≤ 254 := by fin_cases hc <;> decide
  have hs' : Inv s ∧ s.phase = .sample ∧ s.counter = 0 ∧ s.lastLevel = .high := by
    fin_cases hs
    · exact ⟨inv_sample_start, rfl, rfl, rfl⟩
    · exact ⟨inv_sample_data, rfl, rfl, rfl⟩
    · exact ⟨inv_sample_last_bit, rfl, rfl, rfl⟩
    · exact ⟨inv_sample_extra, rfl, rfl, rfl⟩
  obtain ⟨i, p, k, l⟩ := hs'
  have l' : (slotOf s c .high .low).lastLevel = .high := l
  refine ⟨inv_slotOf i _ _ _, p, k, hc', fun j h => (h1 j h).trans l'.symm, ?_, h3⟩
  rw [h2, l']; decide

/-- SlotTimesOutAtTheCeiling. -/
theorem meets_SlotTimesOutAtTheCeiling :
    let s := during (sampling 0 .high 0 0 [] .high) 255 (sampleTick .high)
    s.phase = .sample ∧ s.counter = 0 ∧
    ∀ j < 255, (s.inputAt j).lineIn = s.lastLevel ∧ (s.inputAt j).rst = false := by
  refine ⟨rfl, rfl, fun j h => ?_⟩
  rw [inputAt_during _ _ h]; exact ⟨rfl, rfl⟩

/-- SamplerMakesProgress, and InvariantKept: a tick that counts, and one that ends the last slot. -/
theorem meets_SamplerMakesProgress :
    ∀ s ∈ [sampling 5 .low 253 1 [(0, 1)] .low, sampling 84 .high 0 40 goodBuf .low],
      Inv s ∧ s.phase = .sample ∧ ∃ t, step s = .next t := by
  intro s h
  fin_cases h
  · exact ⟨inv_sample_253, rfl, _, rfl⟩
  · exact ⟨inv_sample_extra, rfl, _, rfl⟩

/-! For the validator and the result. -/

/-- ValidateBadsumOperation and ValidateShortOperation. -/
theorem meets_ValidateOperations :
    (Inv (validating 40 badBuf) ∧ (validating 40 badBuf).phase = .validate) ∧
    Inv { validating 39 [(0, 0x32), (2, 0x1B), (4, 0x26)] with slotIndex := 82 } ∧
    operationAt { validating 39 [(0, 0x32), (2, 0x1B), (4, 0x26)] with slotIndex := 82 } = .validateShort :=
  ⟨⟨inv_validate_bad, rfl⟩, inv_validate_short, by decide⟩

/-- VerdictRule and ResultOfARead: an accepted frame, a bad one, and the longest short capture. -/
theorem meets_VerdictRule :
    ∀ s ∈ [validating 40 goodBuf, validating 40 badBuf, validating 39 [(0, 0x32), (2, 0x1B), (4, 0x26)]],
      s.inputs.rst = false ∧ s.phase = .validate := by
  intro s h
  fin_cases h <;> exact ⟨rfl, rfl⟩

/-- ReadIsAFunctionOfTheSamples: a command, and no reset for the ticks of a read. -/
theorem meets_ReadIsAFunctionOfTheSamples :
    let s := during (idleWith (commandTick 7)) (readTicks smallParams) (commandTick 7)
    Inv s ∧ s.phase = .idle ∧ s.inputs.start = true ∧
    ∀ j < readTicks s.params, (s.inputAt j).rst = false := by
  refine ⟨inv_during inv_command _ _, rfl, ?_, fun j h => ?_⟩
  · exact congrArg TickInputs.start (inputAt_during _ _ (by decide))
  · exact congrArg TickInputs.rst (inputAt_during (n := readTicks smallParams) _ _ h)

/-! For the frames and the rules of the whole machine. -/

/-- The frames and the WhoWrites statements: every operation, with its field at both values, is executed in
some state, and a tick of each kind has a next state. -/
theorem meets_frames :
    (∀ i ∈ [Instr.reset, .idle, .read, .startModeOut, .startHigh, .warmupWait, .startLow, .triggerWait,
      .startRelease, .pollSame, .pollTimeout, .edgeSkip false, .edgeSkip true, .edgeBit0 false, .edgeBit0 true,
      .edgeBit1 false, .edgeBit1 true, .edgeOverrun false, .edgeOverrun true, .validateOk, .validateBadsum,
      .validateShort, .illegalPhase], ∃ t, exec i (sampling 4 .high 16 0 [] .low) = .next t) ∧
    (sampling 4 .high 16 0 [] .low).buf.wf = true ∧ 5 ≤ 5 := by
  refine ⟨fun i h => ?_, rfl, le_rfl⟩
  fin_cases h <;> exact ⟨_, rfl⟩

/-- WhoWritesTheBuffer and WhoWritesTheSlotIndex: ticks that clear, that store, that skip a byte, and the tick
that takes `slot_index` to 85. -/
theorem meets_WhoWrites :
    (∃ t, step (idleWith (commandTick 7)) = .next t) ∧ operationAt (idleWith (commandTick 7)) = .read ∧
    (∃ t, step (sampling 82 .high 17 39 [] .low) = .next t) ∧
    operationAt (sampling 82 .high 17 39 [] .low) = .edgeBit1 false ∧
    (∃ t, step (sampling 4 .high 16 0 [] .low) = .next t) ∧
    operationAt (sampling 4 .high 16 0 [] .low) = .edgeBit0 false ∧
    (∃ t, step (validating 40 goodBuf) = .next t) ∧ operationAt (validating 40 goodBuf) = .validateOk ∧
    (∃ t, step (validating 40 badBuf) = .next t) ∧ operationAt (validating 40 badBuf) = .validateBadsum ∧
    (tickOf (sampling 84 .high 0 40 goodBuf .low)).map (fun t => t.slotIndex.toNat) = some 85 ∧
    (sampling 84 .high 0 40 goodBuf .low).slotIndex.toNat ≠ 85 := by
  refine ⟨⟨_, rfl⟩, by decide, ⟨_, rfl⟩, by decide, ⟨_, rfl⟩, by decide, ⟨_, rfl⟩, by decide, ⟨_, rfl⟩,
    by decide, by decide, by decide⟩

/-- WhoWritesTheOtherRegisters: ticks that change what a clause is about. -/
theorem meets_WhoWritesTheOtherRegisters :
    (tickOf (starting .sModeOut .input .high 0)).map (fun t => t.phase) = some .sHigh ∧
    (tickOf (validating 40 goodBuf)).map (fun t => t.phase) = some .idle ∧
    (tickOf (sampling 84 .high 0 40 [] .low)).map (fun t => t.phase) = some .validate ∧
    (tickOf (sampling 82 .high 17 39 [] .low)).map (fun t => (t.lastLevel, t.counter, t.bitCursor))
      = some (.low, 0, 40) ∧
    (tickOf (starting .sWarmup .output .high 4)).map (fun t => (t.timer, t.lineOut)) = some (0, .low) ∧
    (tickOf (starting .sModeOut .input .high 0)).map (fun t => t.lineOe) = some .output ∧
    (tickOf (sampling 4 .high 254 0 [] .high)).map (fun t => t.timeout) = some true ∧
    (tickOf (sampling 84 .high 0 40 [] .low)).map (fun t => t.overrun) = some true ∧
    (tickOf (validating 40 goodBuf)).map (fun t => (t.pin, t.done, t.status)) = some (0, true, .ok) ∧
    (tickOf (validating 40 goodBuf)).map (fun t => (t.humidity, t.temperature)) = some (0x32, 0x1B) := by
  refine ⟨?_, ?_, ?_, ?_, ?_, ?_, ?_, ?_, ?_, ?_⟩ <;> decide

/-- InvariantSaysTheSpecsList, EveryReadEnds: a state of the invariant for each clause that has a premise. -/
theorem meets_InvariantSaysTheSpecsList :
    (Inv (validating 40 goodBuf) ∧ (validating 40 goodBuf).counter.toNat = 255 ∧
      (validating 40 goodBuf).timeout = true) ∧
    (Inv (sampling 82 .high 0 39 [(0, 0x32), (2, 0x1B), (4, 0x26)] .low) ∧
      (sampling 82 .high 0 39 [(0, 0x32), (2, 0x1B), (4, 0x26)] .low).phase = .sample) ∧
    (Inv overrunning ∧ overrunning.overrun = true) ∧
    (Inv (idleWith (sampleTick .low)) ∧ (idleWith (sampleTick .low)).phase = .idle) ∧
    (Inv (starting .sTrigger .output .low 2) ∧ (starting .sTrigger .output .low 2).lineOe = .output) ∧
    (Inv afterOk ∧ afterOk.done = true) ∧
    Inv (sampling 5 .low 253 1 [(0, 1)] .low) ∧
    (sampling 5 .low 253 1 [(0, 1)] .low).bitCursor.toNat ≤ 8 * 1 :=
  ⟨⟨inv_validate, by decide, rfl⟩, ⟨inv_sample_last_bit, rfl⟩, ⟨inv_overrunning, rfl⟩, ⟨inv_idle, rfl⟩,
    ⟨inv_sTrigger, rfl⟩, ⟨inv_afterOk, rfl⟩, inv_sample_253, by decide⟩

/-- StartIsIgnoredWhileBusy and LineIsReadOnlyInSample: a busy phase that is not SAMPLE; and SAMPLE. -/
theorem meets_noninterference :
    (starting .sWarmup .output .high 4).phase ≠ .idle ∧ (starting .sWarmup .output .high 4).phase ≠ .sample ∧
    Inv (sampling 0 .high 0 0 [] .high) ∧ (sampling 0 .high 0 0 [] .high).phase = .sample :=
  ⟨by decide, by decide, inv_sample_start, rfl⟩

/-- ReadForgetsThePast: an idle block that never read, and the one V1 leaves, with one command. -/
theorem meets_ReadForgetsThePast :
    let s := idleWith (commandTick 4)
    Inv s ∧ Inv afterOk ∧ s.phase = .idle ∧ afterOk.phase = .idle ∧ s.params = afterOk.params ∧
    s.script = afterOk.script ∧ s.tick = afterOk.tick ∧ s.inputs.rst = false ∧ s.inputs.start = true :=
  ⟨inv_during inv_command 1 (commandTick 4), inv_afterOk, rfl, rfl, rfl, rfl, rfl, rfl, rfl⟩

/-- PinAndFlagsDecideNothing, TicksConsumeOneInput. -/
theorem meets_PinAndFlagsDecideNothing : ∃ t, step (sampling 82 .high 17 39 goodBuf .low) = .next t := ⟨_, rfl⟩

end Sys2Proof.Tests
end

section
/-! PROOFS. Who writes the buffer and `slot_index` (10_state.md R24, R31): the effect of each operation, what
selects an edge and a verdict, and from these the two statements. -/

namespace Sys2Proof.Machine

/-! ### The effect of each operation, said once -/

section
variable (s : State) (l : Bool)

@[simp] theorem exec_reset : exec .reset s =
    .next { clearCapture s with phase := .idle, pin := 0, lineOe := .input } := rfl
@[simp] theorem exec_idle : exec .idle s = .next s := rfl
@[simp] theorem exec_read : exec .read s =
    .next { clearCapture s with pin := pinPort s, phase := .sModeOut } := rfl
@[simp] theorem exec_startModeOut : exec .startModeOut s =
    .next { lineMode .output s with phase := .sHigh } := rfl
@[simp] theorem exec_startHigh : exec .startHigh s =
    .next { lineWrite .high s with timer := 0, phase := .sWarmup } := rfl
@[simp] theorem exec_warmupWait : exec .warmupWait s = .next { s with timer := s.timer + 1 } := rfl
@[simp] theorem exec_startLow : exec .startLow s =
    .next { lineWrite .low s with timer := 0, phase := .sTrigger } := rfl
@[simp] theorem exec_triggerWait : exec .triggerWait s = .next { s with timer := s.timer + 1 } := rfl
@[simp] theorem exec_startRelease : exec .startRelease s =
    .next { lineMode .input s with timer := 0, counter := 0, phase := .sample } := rfl
@[simp] theorem exec_pollSame : exec .pollSame s = .next { s with counter := s.counter + 1 } := rfl
@[simp] theorem exec_pollTimeout : exec .pollTimeout s =
    .next { s with counter := BitVec.ofNat 8 Config.countCeil, timeout := true, phase := .validate } := rfl
@[simp] theorem exec_edgeSkip : exec (.edgeSkip l) s = .next (endSlot l s) := rfl
@[simp] theorem exec_edgeBit0 : exec (.edgeBit0 l) s = edgeBit false l s := rfl
@[simp] theorem exec_edgeBit1 : exec (.edgeBit1 l) s = edgeBit true l s := rfl
@[simp] theorem exec_edgeOverrun : exec (.edgeOverrun l) s =
    .next (endSlot l { s with overrun := true, bitCursor := s.bitCursor + 1 }) := rfl
@[simp] theorem exec_validateOk : exec .validateOk s =
    .next { finishRead .ok s with humidity := s.buf.read 0, temperature := s.buf.read 2 } := rfl
@[simp] theorem exec_validateBadsum : exec .validateBadsum s =
    .next (finishRead .checksumMismatch s) := rfl
@[simp] theorem exec_validateShort : exec .validateShort s =
    .next (finishRead (shortCode s.params.errMode) s) := rfl
@[simp] theorem exec_illegalPhase : exec .illegalPhase s =
    .next { lineMode .input s with phase := .idle } := rfl

end

/-- A data bit is stored exactly when the cursor is below 40, and then this is the next state. -/
theorem edgeBit_next_iff {b l : Bool} {s u : State} :
    edgeBit b l s = .next u ↔ s.bitCursor.toNat < 40 ∧
      u = endSlot l { s.setByte (byteIndex s.bitCursor)
        (shiftIn (s.buf.read (byteIndex s.bitCursor)) b) with bitCursor := s.bitCursor + 1 } := by
  by_cases h : s.bitCursor.toNat < 40
  · simp [edgeBit_of_lt h, h, eq_comm]
  · simp [edgeBit_of_ge (Nat.le_of_not_lt h), h]

/-! ### What selects an edge and a verdict -/

/-- An edge is taken in phase SAMPLE, without reset, and when the line has changed (R100). -/
theorem isEdge_operationAt_iff (s : State) : isEdge (operationAt s) = true ↔
    s.inputs.rst = false ∧ s.phase = .sample ∧ s.inputs.lineIn ≠ s.lastLevel := by
  rw [operationAt_of_registers]
  cases hr : s.inputs.rst
  case true => simp [isEdge]
  case false =>
    cases hp : s.phase
    all_goals
      simp only [Bool.false_eq_true, if_false, apply_ite isEdge]
      simp [isEdge]

/-- An edge carries in `l` whether this is slot 84 (R98, R99). -/
theorem operationAt_withLast {s : State} (h : isEdge (operationAt s) = true) :
    (operationAt s).withLast (decide (s.slotIndex.toNat = 84)) = operationAt s := by
  obtain ⟨hr, hp, hl⟩ := (isEdge_operationAt_iff s).mp h
  rw [operationAt_of_registers, hr, hp]
  simp only [hl, Bool.false_eq_true, if_false]
  split_ifs <;> rfl

/-- A read ends in phase VALIDATE, without reset (R100). -/
theorem endsRead_operationAt_iff (s : State) : endsRead (operationAt s) = true ↔
    s.inputs.rst = false ∧ s.phase = .validate := by
  rw [operationAt_of_registers]
  cases hr : s.inputs.rst
  case true => simp [endsRead]
  case false =>
    cases hp : s.phase
    all_goals
      simp only [Bool.false_eq_true, if_false, apply_ite endsRead]
      simp [endsRead]

/-- Which of the three operations ends the read (R100). -/
theorem operationAt_of_endsRead {s : State} (h : endsRead (operationAt s) = true) : operationAt s =
    if s.bitCursor.toNat < 40 then .validateShort
    else if (s.buf.read 4).toNat = byteSum s.buf % 256 then .validateOk else .validateBadsum := by
  obtain ⟨hr, hp⟩ := (endsRead_operationAt_iff s).mp h
  simp [operationAt_of_registers, hr, hp]

/-! ### `slot_index` (R24) -/

/-- READ and RESET clear `slot_index`. -/
theorem exec_clear_slotIndex {i : Instr} {s u : State} (hi : i = .read ∨ i = .reset)
    (h : exec i s = .next u) : u.slotIndex = 0 := by
  rcases hi with rfl | rfl
  all_goals
    cases h
    rfl

/-- What each EDGE operation does to the slot and the phase (R143). -/
theorem exec_edge {i : Instr} {l : Bool} {s u : State} (hi : isEdge i = true)
    (h : exec (i.withLast l) s = .next u) :
    u.slotIndex = s.slotIndex + 1 ∧ u.phase = if l then .validate else .sample := by
  cases i
  case edgeSkip | edgeOverrun =>
    cases h
    exact ⟨rfl, rfl⟩
  case edgeBit0 | edgeBit1 =>
    obtain ⟨-, rfl⟩ := edgeBit_next_iff.mp h
    exact ⟨rfl, rfl⟩
  all_goals simp [isEdge] at hi

/-- No operation but READ, RESET and the edges writes `slot_index`. -/
theorem exec_keeps_slotIndex {i : Instr} {s u : State} (hread : i ≠ .read) (hreset : i ≠ .reset)
    (hi : isEdge i = false) (h : exec i s = .next u) : u.slotIndex = s.slotIndex := by
  cases i
  case read => exact absurd rfl hread
  case reset => exact absurd rfl hreset
  case edgeSkip | edgeBit0 | edgeBit1 | edgeOverrun => simp [isEdge] at hi
  all_goals
    cases h
    rfl

/-- A tick that ends a slot: the next slot begins, in phase VALIDATE exactly after slot 84. -/
theorem step_edge {s t : State} (h : step s = .next t) (hi : isEdge (operationAt s) = true) :
    t.slotIndex = s.slotIndex + 1 ∧
      t.phase = if s.slotIndex.toNat = 84 then .validate else .sample := by
  obtain ⟨u, hu, rfl⟩ := step_next_iff.mp h
  rw [← operationAt_withLast hi] at hu
  simpa using exec_edge hi hu

/-- A tick that takes `slot_index` to 85 is an edge: nothing else counts it up. -/
theorem isEdge_of_slotIndex_reaches_85 {s t : State} (h : step s = .next t)
    (ht : t.slotIndex.toNat = 85) (hs : s.slotIndex.toNat ≠ 85) : isEdge (operationAt s) = true := by
  obtain ⟨u, hu, rfl⟩ := step_next_iff.mp h
  rw [nextTick_slotIndex] at ht
  by_contra hi
  by_cases hc : operationAt s = .read ∨ operationAt s = .reset
  · simp [exec_clear_slotIndex hc hu] at ht
  · obtain ⟨hread, hreset⟩ := not_or.mp hc
    rw [exec_keeps_slotIndex hread hreset (by simpa using hi) hu] at ht
    exact hs ht

/-- Settles O49: READ and RESET clear, an edge adds one, nothing else writes, and an edge in slot 84 goes to
phase VALIDATE. -/
theorem whoWritesTheSlotIndex : Obligations.WhoWritesTheSlotIndex := by
  refine ⟨fun s t h => ⟨fun hc => ?_, fun hi => (step_edge h hi).1, fun hread hreset hi => ?_,
    fun ht hs => ?_⟩, fun s hInv hp => (hInv.sampling hp).1⟩
  · obtain ⟨u, hu, rfl⟩ := step_next_iff.mp h
    simpa using exec_clear_slotIndex hc hu
  · obtain ⟨u, hu, rfl⟩ := step_next_iff.mp h
    simpa using exec_keeps_slotIndex hread hreset hi hu
  · have hi := isEdge_of_slotIndex_reaches_85 h ht hs
    obtain ⟨hslot, hphase⟩ := step_edge h hi
    have h84 : s.slotIndex.toNat = 84 := by
      rw [hslot] at ht
      bv_omega
    exact ⟨hi, h84, by simp [hphase, h84]⟩

/-! ### The buffer (R31) -/

/-- READ and RESET empty the buffer. -/
theorem exec_clear_buf {i : Instr} {s u : State} (hi : i = .read ∨ i = .reset)
    (h : exec i s = .next u) : u.buf = [] := by
  rcases hi with rfl | rfl
  all_goals
    cases h
    rfl

/-- No operation but READ, RESET and the two that store a bit writes the buffer. -/
theorem exec_keeps_buf {i : Instr} {s u : State} (hread : i ≠ .read) (hreset : i ≠ .reset)
    (hi : storesBit i = false) (h : exec i s = .next u) : u.buf = s.buf := by
  cases i
  case read => exact absurd rfl hread
  case reset => exact absurd rfl hreset
  case edgeBit0 | edgeBit1 => simp [storesBit] at hi
  all_goals
    cases h
    rfl

/-- A stored bit enters the byte of the cursor, which is one of the five, and no other byte. -/
theorem edgeBit_buf {b l : Bool} {s u : State} (h : edgeBit b l s = .next u) :
    s.bitCursor.toNat / 8 < 5 ∧ ∀ k, u.buf.read k = if k = s.bitCursor.toNat / 8
      then shiftIn (s.buf.read (s.bitCursor.toNat / 8)) b else s.buf.read k := by
  obtain ⟨hlt, rfl⟩ := edgeBit_next_iff.mp h
  refine ⟨by omega, fun k => ?_⟩
  simp [byteIndex_eq, read_write]

/-- The two operations that store a bit, as the one function that both are. -/
theorem exec_of_storesBit {i : Instr} (hi : storesBit i = true) :
    ∃ b l, ∀ s, exec i s = edgeBit b l s := by
  cases i
  case edgeBit0 l => exact ⟨false, l, exec_edgeBit0 (l := l)⟩
  case edgeBit1 l => exact ⟨true, l, exec_edgeBit1 (l := l)⟩
  all_goals simp [storesBit] at hi

/-- The byte of the cursor after a stored bit, as a number (R93). -/
theorem edgeBit_byte_toNat {b l : Bool} {s u : State} (h : edgeBit b l s = .next u) :
    (u.buf.read (s.bitCursor.toNat / 8)).toNat
      = 2 * (s.buf.read (s.bitCursor.toNat / 8)).toNat % 256 + b.toNat := by
  obtain ⟨-, hread⟩ := edgeBit_buf h
  rw [hread, if_pos rfl, shiftIn_toNat]

/-- Settles O48: each operation's effect on the buffer, and what the two verdicts over 40 bits read. -/
theorem whoWritesTheBuffer : Obligations.WhoWritesTheBuffer := by
  intro s t h
  obtain ⟨u, hu, rfl⟩ := step_next_iff.mp h
  simp only [nextTick_buf]
  refine ⟨fun hc k => ?_, fun hi => ?_, fun l hop => ?_, fun l hop => ?_, fun hop => ?_, fun hop => ?_,
    fun hread hreset hi => exec_keeps_buf hread hreset hi hu⟩
  · rw [exec_clear_buf hc hu]
    rfl
  · obtain ⟨b, l, hexec⟩ := exec_of_storesBit hi
    rw [hexec] at hu
    obtain ⟨hlt, hread⟩ := edgeBit_buf hu
    exact ⟨hlt, fun k hk => by rw [hread, if_neg hk]⟩
  · rw [hop, exec_edgeBit0] at hu
    exact edgeBit_byte_toNat hu
  · rw [hop, exec_edgeBit1] at hu
    exact edgeBit_byte_toNat hu
  · have hv := operationAt_of_endsRead (s := s) (by rw [hop]; rfl)
    rw [hop] at hv
    split_ifs at hv with hlt hsum
    exact hsum
  · have hv := operationAt_of_endsRead (s := s) (by rw [hop]; rfl)
    rw [hop] at hv
    split_ifs at hv with hlt hsum
    exact hsum

end Sys2Proof.Machine
end

section
/-! PROOFS. The condition bits of R99, and what an operation looks at in a selector word (30_encoding.md R99,
R100): the bits that its row fixes, and in the EDGE rows bit 0. -/

namespace Sys2Proof

/-! ### What a row of the operation table fixes in a word -/

theorem SelRow.hits_iff {r : SelRow} {w : Sel} : r.hits w = true ↔ w &&& r.mask = r.pattern :=
  beq_iff_eq

/-- In a word that matches a row, each bit of the mask is the pattern's (R100). -/
theorem SelRow.getLsbD_of_hits {r : SelRow} {w : Sel} (h : r.hits w = true) (i : Nat)
    (hm : r.mask.getLsbD i = true) : w.getLsbD i = r.pattern.getLsbD i := by
  rw [← hits_iff.mp h, BitVec.getLsbD_and, hm, Bool.and_true]

/-- Where the mask holds the three bits of the phase (every row but RESET's), they are the pattern's. -/
theorem SelRow.phaseCode_of_hits {r : SelRow} {w : Sel} (h : r.hits w = true)
    (hm : r.mask.extractLsb' 9 3 = BitVec.allOnes 3) :
    w.extractLsb' 9 3 = r.pattern.extractLsb' 9 3 := by
  rw [← hits_iff.mp h, BitVec.extractLsb'_and, hm, BitVec.and_allOnes]

/-- The decoder answers the operation of a row that the word matches, with `l` from bit 0: the tests of the
decoder that lead to a row are on bits of its mask (R100, R101). -/
theorem decodeSel_of_hits {r : SelRow} (hr : r ∈ selTable) {w : Sel} (h : r.hits w = true) :
    decodeSel w = r.instr.withLast (w.getLsbD 0) := by
  have hbit := SelRow.getLsbD_of_hits h
  have hphase := SelRow.phaseCode_of_hits h
  fin_cases hr
  all_goals
    simp [decodeSel, Selector.operation, Selector.ofWord, Instr.withLast, hbit, hphase, Phase.ofCode,
      -BitVec.getLsbD_eq_getElem]

/-- Only the four EDGE operations have a field `l`. -/
theorem Instr.withLast_of_isEdge_false {i : Instr} (h : Machine.isEdge i = false) (b : Bool) :
    i.withLast b = i := by
  cases i
  case edgeSkip | edgeBit0 | edgeBit1 | edgeOverrun => simp [Machine.isEdge] at h
  all_goals rfl

/-- Two words of one row decode to one operation, in the EDGE rows if they agree in bit 0 (R99). -/
theorem decodeSel_eq_of_hits {r : SelRow} (hr : r ∈ selTable) {w w' : Sel} (h : r.hits w = true)
    (h' : r.hits w' = true) (hl : Machine.isEdge r.instr = true → w.getLsbD 0 = w'.getLsbD 0) :
    decodeSel w = decodeSel w' := by
  rw [decodeSel_of_hits hr h, decodeSel_of_hits hr h']
  cases he : Machine.isEdge r.instr
  case true => rw [hl he]
  case false => rw [Instr.withLast_of_isEdge_false he, Instr.withLast_of_isEdge_false he]

namespace Machine

/-- `data` with the parity of the slot as bit 0 of `slot_index`, as R99 writes it. -/
theorem condData_iff_getLsbD (s : State) : condData s = true ↔
    4 ≤ s.slotIndex.toNat ∧ s.slotIndex.getLsbD 0 = false := by
  rw [condData_iff, BitVec.getLsbD, Nat.testBit_zero, decide_eq_false_iff_not, Nat.mod_two_not_eq_one]

/-- Settles O4: each condition bit is its test of the registers, and two words of a row decode alike. -/
theorem conditionBits : Obligations.ConditionBits := by
  refine ⟨fun s => ?_, fun r hr w w' h h' hl => decodeSel_eq_of_hits hr h h' hl⟩
  have hlast : condLastslot s = true ↔ s.slotIndex.toNat = 84 := by
    rw [condLastslot_eq, decide_eq_true_iff]
  exact ⟨condTdone_iff s, condSame_iff s, condCeil_iff s, condData_iff_getLsbD s, condFull_iff s,
    condWide_iff s, condSumok_iff s, hlast⟩

end Machine

end Sys2Proof
end

section
/-! PROOFS. The idle block and the first high level of the start sequence (40_command_start_sequence.md R120,
R123): what selects IDLE and START_HIGH, and any number of ticks in phase IDLE. -/

namespace Sys2Proof.Machine

/-! ### What selects the two operations -/

/-- Only phase IDLE, without reset and without a command, takes IDLE (R120). -/
theorem operationAt_eq_idle_iff (s : State) : operationAt s = .idle ↔
    s.inputs.rst = false ∧ s.phase = .idle ∧ s.inputs.start = false := by
  rw [operationAt_of_registers]
  cases hr : s.inputs.rst
  case true => simp
  case false =>
    cases hp : s.phase
    all_goals
      simp only [Bool.false_eq_true, if_false, apply_ite (· = Instr.idle)]
      simp

/-- Only phase S_HIGH, without reset, takes START_HIGH (R123). -/
theorem operationAt_eq_startHigh_iff (s : State) : operationAt s = .startHigh ↔
    s.inputs.rst = false ∧ s.phase = .sHigh := by
  rw [operationAt_of_registers]
  cases hr : s.inputs.rst
  case true => simp
  case false =>
    cases hp : s.phase
    all_goals
      simp only [Bool.false_eq_true, if_false, apply_ite (· = Instr.startHigh)]
      simp

/-! ### Ticks in phase IDLE -/

/-- A tick that takes IDLE does nothing but let the next tick's inputs come up. -/
theorem step_idle {s : State} (h : operationAt s = .idle) : step s = .next s.nextTick :=
  step_of_exec (by rw [h, exec_idle])

/-- Without reset and command the block stays in phase IDLE, and only the model's own fields advance. -/
theorem run_idle {s : State} {n : Nat} (hp : s.phase = .idle)
    (hin : ∀ j < n, (s.inputAt j).rst = false ∧ (s.inputAt j).start = false) :
    Host.Core.run core n s = .next { s with script := s.script.drop n, tick := s.tick + n } := by
  induction n generalizing s with
  | zero => rfl
  | succ n ih =>
    obtain ⟨hrst, hstart⟩ := hin 0 n.succ_pos
    have hop : operationAt s = .idle := (operationAt_eq_idle_iff s).mpr ⟨hrst, hp, hstart⟩
    have hnext : ∀ j < n, (s.nextTick.inputAt j).rst = false ∧ (s.nextTick.inputAt j).start = false := by
      intro j hj
      rw [nextTick_inputAt]
      exact hin (j + 1) (Nat.succ_lt_succ hj)
    rw [run_succ (step_idle hop), ih (s := s.nextTick) hp hnext]
    simp [State.nextTick, Nat.add_comm n 1, Nat.add_assoc]

/-! ### The two statements -/

/-- Settles O10: what selects IDLE, that it writes nothing, and the run by induction on its ticks. -/
theorem idleOperation : Obligations.IdleOperation :=
  ⟨operationAt_eq_idle_iff, exec_idle, fun _ _ => run_idle⟩

/-- Settles O13: what selects START_HIGH, its effect, and the level that the invariant gives phase S_HIGH. -/
theorem startHighOperation : Obligations.StartHighOperation := by
  refine ⟨operationAt_eq_startHigh_iff, exec_startHigh, fun s hInv hp => ?_⟩
  exact hInv.outLevel .high (by rw [hp]; rfl)

end Sys2Proof.Machine
end

section
/-! PROOFS. The samples that store nothing (41_edge_sampler.md R141, R144): what selects POLL_SAME and EDGE_SKIP,
the bound on the count, and that slot 84 is never skipped. -/

namespace Sys2Proof.Machine

/-! ### What selects the two operations -/

/-- Only phase SAMPLE takes POLL_SAME, at a sample equal to the last level below the ceiling (R141). -/
theorem operationAt_eq_pollSame_iff (s : State) : operationAt s = .pollSame ↔
    s.inputs.rst = false ∧ s.phase = .sample ∧ s.inputs.lineIn = s.lastLevel ∧
      s.counter.toNat ≠ 254 := by
  rw [operationAt_of_registers]
  cases hr : s.inputs.rst
  case true => simp
  case false =>
    cases hp : s.phase
    all_goals
      simp only [Bool.false_eq_true, if_false, apply_ite (· = Instr.pollSame)]
      simp

/-- EDGE_SKIP with `l` is an edge outside the data slots, and `l` says whether the slot is 84 (R99, R144). -/
theorem operationAt_eq_edgeSkip_iff (s : State) (l : Bool) : operationAt s = .edgeSkip l ↔
    s.inputs.rst = false ∧ s.phase = .sample ∧ s.inputs.lineIn ≠ s.lastLevel ∧
      ¬ (4 ≤ s.slotIndex.toNat ∧ s.slotIndex.toNat % 2 = 0) ∧
      decide (s.slotIndex.toNat = 84) = l := by
  rw [operationAt_of_registers]
  cases hr : s.inputs.rst
  case true => simp
  case false =>
    cases hp : s.phase
    all_goals
      simp only [Bool.false_eq_true, if_false, apply_ite (· = Instr.edgeSkip l)]
      simp

/-- The slots that fail the test for a data slot (R91, R99; slot 84 passes it) are those below 4 and the odd
ones. -/
theorem not_dataSlot_iff (k : Nat) : ¬ (4 ≤ k ∧ k % 2 = 0) ↔ k < 4 ∨ k % 2 = 1 := by
  omega

/-! ### The count in phase SAMPLE -/

/-- In phase SAMPLE the count has not reached the ceiling (R26, R42). -/
theorem Inv.counter_le_of_sample {s : State} (hInv : Inv s) (hp : s.phase = .sample) :
    s.counter.toNat ≤ 254 := by
  have hceil : s.counter.toNat ≠ 255 := fun h =>
    Bool.false_ne_true ((hInv.sampling hp).2.symm.trans (hInv.timeoutCount.mpr h))
  have hwidth := s.counter.isLt
  omega

/-! ### The two statements -/

/-- Settles O17: what selects POLL_SAME, its effect, and the count below the ceiling in a state of a run. -/
theorem pollSameOperation : Obligations.PollSameOperation := by
  refine ⟨operationAt_eq_pollSame_iff, exec_pollSame, fun s hInv hop => ?_⟩
  obtain ⟨-, hp, -, hne⟩ := (operationAt_eq_pollSame_iff s).mp hop
  have hle : s.counter.toNat ≤ 253 := by
    have := hInv.counter_le_of_sample hp
    omega
  exact ⟨hle, by bv_omega⟩

/-- Settles O19: what selects EDGE_SKIP, that slot 84 is a data slot and so `l` is 0, and the effect. -/
theorem edgeSkipOperation : Obligations.EdgeSkipOperation := by
  refine ⟨fun s => ?_, fun s l hop => ?_, exec_edgeSkip⟩
  · simp only [operationAt_eq_edgeSkip_iff, exists_and_left, exists_eq', and_true, not_dataSlot_iff]
  · obtain ⟨-, -, -, hslot, rfl⟩ := (operationAt_eq_edgeSkip_iff s l).mp hop
    rw [decide_eq_false_iff_not]
    omega

end Sys2Proof.Machine
end

section
/-! PROOFS. The bit of a count (42_bit_assembler.md R161): `classify` is a threshold at 16, and a data bit is
stored as the bit its count gives. -/

namespace Sys2Proof.Machine

/-- A count gives a 1 exactly when it is above 16 (R161). -/
theorem classify_iff (c : BitVec 8) : classify c = true ↔ 16 < c.toNat :=
  decide_eq_true_iff

/-- A data bit is stored at an edge in a data slot with room left; the bit is the one its count gives, and `l`
says whether the slot is 84 (R99, R162, R163). -/
theorem operationAt_eq_edgeBit_iff (s : State) (b l : Bool) :
    operationAt s = (if b then .edgeBit1 l else .edgeBit0 l) ↔
    s.inputs.rst = false ∧ s.phase = .sample ∧ s.inputs.lineIn ≠ s.lastLevel ∧
      (4 ≤ s.slotIndex.toNat ∧ s.slotIndex.toNat % 2 = 0) ∧ s.bitCursor.toNat < 40 ∧
      classify s.counter = b ∧ decide (s.slotIndex.toNat = 84) = l := by
  rw [operationAt_of_registers]
  simp only [← classify_iff]
  cases hr : s.inputs.rst
  case true => cases b <;> simp
  case false =>
    cases hp : s.phase
    all_goals
      cases b
      all_goals
        simp only [Bool.false_eq_true, if_false, if_true, apply_ite (· = Instr.edgeBit0 l),
          apply_ite (· = Instr.edgeBit1 l)]
        simp

/-- Settles O24: `classify` is the threshold at 16, and the bit an operation stores is the one of its count. -/
theorem classificationBoundary : Obligations.ClassificationBoundary := by
  refine ⟨classify_iff, by decide, by decide, by decide, fun s l hop => ?_, fun s l hop => ?_⟩
  · obtain ⟨-, -, -, -, -, hbit, -⟩ := (operationAt_eq_edgeBit_iff s true l).mp hop
    exact hbit
  · obtain ⟨-, -, -, -, -, hbit, -⟩ := (operationAt_eq_edgeBit_iff s false l).mp hop
    exact hbit

end Sys2Proof.Machine
end

section
/-! PROOFS. The verdict (43_checksum_result.md R170, R172, R173): what selects the two operations of a full buffer,
and that a tick of phase VALIDATE ends the read without a look at the line. -/

namespace Sys2Proof.Machine

/-! ### What selects the two operations -/

/-- An operation that ends a read is taken in phase VALIDATE, without reset, when the verdict is that one (R100). -/
theorem operationAt_eq_iff_of_endsRead {i : Instr} (hi : endsRead i = true) (s : State) : operationAt s = i ↔
    s.inputs.rst = false ∧ s.phase = .validate ∧
      (if s.bitCursor.toNat < 40 then .validateShort
        else if (s.buf.read 4).toNat = byteSum s.buf % 256 then .validateOk else .validateBadsum) = i := by
  constructor
  · rintro rfl
    obtain ⟨hr, hp⟩ := (endsRead_operationAt_iff s).mp hi
    exact ⟨hr, hp, (operationAt_of_endsRead hi).symm⟩
  · rintro ⟨hr, hp, hv⟩
    exact (operationAt_of_endsRead ((endsRead_operationAt_iff s).mpr ⟨hr, hp⟩)).trans hv

/-- Only phase VALIDATE takes VALIDATE_OK, without reset, on 40 bits and a sum that agrees (R172). -/
theorem operationAt_eq_validateOk_iff (s : State) : operationAt s = .validateOk ↔
    s.inputs.rst = false ∧ s.phase = .validate ∧ 40 ≤ s.bitCursor.toNat ∧
      (s.buf.read 4).toNat = byteSum s.buf % 256 := by
  rw [operationAt_eq_iff_of_endsRead rfl, ← Nat.not_lt]
  split_ifs with hlt hsum
  all_goals simp [*]

/-- Only phase VALIDATE takes VALIDATE_BADSUM, without reset, on 40 bits and a sum that disagrees (R173). -/
theorem operationAt_eq_validateBadsum_iff (s : State) : operationAt s = .validateBadsum ↔
    s.inputs.rst = false ∧ s.phase = .validate ∧ 40 ≤ s.bitCursor.toNat ∧
      (s.buf.read 4).toNat ≠ byteSum s.buf % 256 := by
  rw [operationAt_eq_iff_of_endsRead rfl, ← Nat.not_lt]
  split_ifs with hlt hsum
  all_goals simp [*]

/-- In phase VALIDATE the inputs select nothing but through the reset (R170). -/
theorem operationAt_withInputs_of_validate {s : State} {j : TickInputs} (hp : s.phase = .validate)
    (hr : j.rst = s.inputs.rst) : operationAt (s.withInputs j) = operationAt s := by
  simp [operationAt_of_registers, hp, hr]

/-! ### How a read ends -/

/-- No short capture is reported as a success, in either ERR_MODE (R174). -/
theorem shortCode_ne_ok (e : ErrMode) : shortCode e ≠ .ok := by
  cases e
  all_goals simp [shortCode]

/-- An operation that ends a read goes to IDLE with `done`, accepts only if it is VALIDATE_OK, and leaves the
inputs alone (R172 to R175). -/
theorem exec_of_endsRead {i : Instr} (hi : endsRead i = true) (s : State) :
    ∃ u, exec i s = .next u ∧ u.phase = .idle ∧ u.done = true ∧ (u.status = .ok ↔ i = .validateOk) ∧
      ∀ j, exec i (s.withInputs j) = .next (u.withInputs j) := by
  cases i
  case validateOk => exact ⟨_, exec_validateOk s, rfl, rfl, by simp, fun _ => rfl⟩
  case validateBadsum => exact ⟨_, exec_validateBadsum s, rfl, rfl, by simp, fun _ => rfl⟩
  case validateShort => exact ⟨_, exec_validateShort s, rfl, rfl, by simp [shortCode_ne_ok], fun _ => rfl⟩
  all_goals simp [endsRead] at hi

/-- Before a read has ended there is no accepted result, and the result fields are 0 (R33, R34, R42). -/
theorem Inv.fieldsZero_of_validate {s : State} (hInv : Inv s) (hp : s.phase = .validate) :
    s.humidity = 0 ∧ s.temperature = 0 := by
  refine hInv.fieldsZero fun hok => ?_
  have hidle : s.phase = .idle := hInv.doneIdle (hInv.doneStatus.mpr (by simp [hok]))
  simp [hp] at hidle

/-- Inputs that stood in the tick's place are gone with the tick. -/
theorem withInputs_nextTick (s : State) (j : TickInputs) : (s.withInputs j).nextTick = s.nextTick := rfl

/-- A tick of phase VALIDATE without reset is the same with any other inputs that do not reset (R170). -/
theorem step_withInputs_of_validate {s : State} {j : TickInputs} (hp : s.phase = .validate)
    (hr : s.inputs.rst = false) (hj : j.rst = false) : step (s.withInputs j) = step s := by
  have hends : endsRead (operationAt s) = true := (endsRead_operationAt_iff s).mpr ⟨hr, hp⟩
  obtain ⟨u, hu, -, -, -, hinputs⟩ := exec_of_endsRead hends s
  have hop : operationAt (s.withInputs j) = operationAt s :=
    operationAt_withInputs_of_validate hp (hj.trans hr.symm)
  have hu' : exec (operationAt (s.withInputs j)) (s.withInputs j) = .next (u.withInputs j) := by
    rw [hop, hinputs]
  rw [step_of_exec hu', step_of_exec hu, withInputs_nextTick]

/-! ### The three statements -/

/-- Settles O30: what selects VALIDATE_OK, and its effect. -/
theorem validateOkOperation : Obligations.ValidateOkOperation :=
  ⟨operationAt_eq_validateOk_iff, exec_validateOk⟩

/-- Settles O31: what selects VALIDATE_BADSUM, its effect, and the fields in phase VALIDATE of a run. -/
theorem validateBadsumOperation : Obligations.ValidateBadsumOperation :=
  ⟨operationAt_eq_validateBadsum_iff, exec_validateBadsum, fun _ => Inv.fieldsZero_of_validate⟩

/-- Settles O33: a tick of phase VALIDATE takes one of the operations that end a read, and neither which one nor
its effect depends on the line. -/
theorem verdictRule : Obligations.VerdictRule := by
  intro s hr hp
  have hends : endsRead (operationAt s) = true := (endsRead_operationAt_iff s).mpr ⟨hr, hp⟩
  obtain ⟨u, hu, hidle, hdone, hstatus, -⟩ := exec_of_endsRead hends s
  have hstep : step s = .next u.nextTick := step_of_exec hu
  refine ⟨u.nextTick, hstep, hidle, hdone, ?_, fun l => ?_⟩
  · rw [nextTick_status, hstatus, operationAt_eq_validateOk_iff]
    simp only [hr, hp, true_and]
  · exact (step_withInputs_of_validate (j := { s.inputs with lineIn := l }) hp hr hr).trans hstep

end Sys2Proof.Machine
end

section
/-! PROOFS. The selector word and the operation table (30_encoding.md R98, R100, R101): the encoder's word decodes
to its operation, every word lies in exactly one row of the table, and the decoder answers that row. -/

namespace Sys2Proof

/-! ### The two-byte form (log 7) -/

/-- The two bytes of a word, the high one on the left, are the word again. -/
theorem setWidth_bytes (w : Sel) :
    (((w.extractLsb' 8 5).setWidth 8 ++ w.setWidth 8 : BitVec 16)).setWidth 13 = w := by
  apply BitVec.eq_of_getLsbD_eq
  intro i hi
  rw [BitVec.getLsbD_setWidth, BitVec.getLsbD_append]
  by_cases h : i < 8
  · simp [h, hi]
  · have h5 : i - 8 < 5 := by omega
    have h8 : 8 + (i - 8) = i := by omega
    simp [h, hi, h5, h8]
    omega

theorem decodeSel_encode (i : Instr) : decodeSel (encode i) = i := by
  cases i
  case edgeSkip l | edgeBit0 l | edgeBit1 l | edgeOverrun l =>
    cases l
    all_goals decide
  all_goals decide

theorem decodeBytes_encodeBytes (i : Instr) (rest : List Byte) :
    decodeBytes (encodeBytes i ++ rest) = .ok (i, rest) := by
  have hhi : (((encode i).extractLsb' 8 5).setWidth 8 : Byte).toNat < 32 := by
    rw [BitVec.toNat_setWidth]
    have := ((encode i).extractLsb' 8 5).isLt
    omega
  simp only [encodeBytes, decodeBytes, List.cons_append, List.nil_append, if_pos hhi]
  rw [setWidth_bytes, decodeSel_encode]

theorem decodeBytes_aboveSelector (lo hi : Byte) (rest : List Byte) (h : 32 ≤ hi.toNat) :
    decodeBytes (lo :: hi :: rest) = .error .aboveSelector := by
  rw [decodeBytes, if_neg (Nat.not_lt.mpr h)]

/-! ### Exactly one row -/

/-- A word matches a row when it has the pattern's bit wherever the mask has a 1. -/
theorem SelRow.hits_of_bits {r : SelRow} {w : Sel} (hsub : r.pattern &&& r.mask = r.pattern)
    (h : ∀ i < 13, r.mask.getLsbD i = true → w.getLsbD i = r.pattern.getLsbD i) : r.hits w = true := by
  rw [hits_iff, ← hsub]
  apply BitVec.eq_of_getLsbD_eq
  intro i hi
  rw [BitVec.getLsbD_and, BitVec.getLsbD_and]
  cases hm : r.mask.getLsbD i
  case false => simp
  case true => rw [h i hi hm]

/-- No two rows of the table agree where both look (R101). -/
theorem selTable_disjoint : ∀ r ∈ selTable, ∀ r' ∈ selTable,
    r.pattern &&& r'.mask = r'.pattern &&& r.mask → r = r' := by decide

theorem SelRow.eq_of_hits {r r' : SelRow} (hr : r ∈ selTable) (hr' : r' ∈ selTable) {w : Sel}
    (h : r.hits w = true) (h' : r'.hits w = true) : r = r' := by
  refine selTable_disjoint r hr r' hr' ?_
  rw [← hits_iff.mp h, ← hits_iff.mp h', BitVec.and_assoc, BitVec.and_assoc, BitVec.and_comm r.mask]

/-- The test of a row as a Boolean formula in the bits of the word (R100). -/
theorem SelRow.hits_eq_all {r : SelRow} (hsub : r.pattern &&& r.mask = r.pattern) (w : Sel) : r.hits w =
    (List.range 13).all fun i => !r.mask.getLsbD i || w.getLsbD i == r.pattern.getLsbD i := by
  rw [Bool.eq_iff_iff, List.all_eq_true]
  constructor
  · intro h i _
    cases hm : r.mask.getLsbD i
    case false => simp
    case true => simpa using getLsbD_of_hits h i hm
  · intro h
    refine hits_of_bits hsub fun i hi hm => ?_
    simpa only [hm, Bool.not_true, Bool.false_or, beq_iff_eq] using h i (List.mem_range.mpr hi)

/-- The 19 rows leave no word out (R101): written in the bits of the word, one of the 19 formulas is true. -/
theorem selTable_covers (w : Sel) : ∃ r ∈ selTable, r.hits w = true := by
  simp only [selTable, selTableStart, selTableRead, List.cons_append, List.nil_append, List.mem_cons,
    exists_eq_or_imp, List.not_mem_nil, or_false]
  simp [SelRow.hits_eq_all, List.range_succ, -BitVec.getLsbD_eq_getElem]
  grind

/-- A word has one row, and it is the only one the word matches (R101). -/
theorem exists_row (w : Sel) : ∃ r₀ ∈ selTable, ∀ r ∈ selTable, r.hits w = decide (r = r₀) := by
  obtain ⟨r₀, hr₀, hw⟩ := selTable_covers w
  refine ⟨r₀, hr₀, fun r hr => ?_⟩
  rw [Bool.eq_iff_iff, decide_eq_true_iff]
  exact ⟨fun h => SelRow.eq_of_hits hr hr₀ h hw, fun h => h ▸ hw⟩

theorem selTable_filter_eq : ∀ r₀ ∈ selTable, selTable.filter (fun r => decide (r = r₀)) = [r₀] := by
  decide

/-- The word of a row's operation, with either value of `l`, lies in that row. -/
theorem SelRow.hits_encode : ∀ r ∈ selTable, ∀ l, r.hits (encode (r.instr.withLast l)) = true := by
  decide

/-- Encoding what was decoded keeps the word in its row, so every bit the row fixes is kept. -/
theorem hits_encode_decodeSel (w : Sel) {r : SelRow} (hr : r ∈ selTable) :
    r.hits (encode (decodeSel w)) = r.hits w := by
  obtain ⟨r₀, hr₀, hw⟩ := exists_row w
  have hdec : decodeSel w = r₀.instr.withLast (w.getLsbD 0) :=
    decodeSel_of_hits hr₀ (by rw [hw r₀ hr₀, decide_eq_true rfl])
  have henc : r₀.hits (encode (decodeSel w)) = true := by
    rw [hdec]
    exact SelRow.hits_encode r₀ hr₀ _
  rw [hw r hr, Bool.eq_iff_iff, decide_eq_true_iff]
  exact ⟨fun h => SelRow.eq_of_hits hr hr₀ h henc, fun h => h ▸ henc⟩

/-! ### The statements -/

/-- Settles O2: decoding undoes encoding byte for byte, a word and its operation's word lie in the same row, and
a bit above bit 12 is refused. -/
theorem decodeEncodeAgree : Obligations.DecodeEncodeAgree :=
  ⟨decodeBytes_encodeBytes, fun w _ hr => hits_encode_decodeSel w hr, decodeBytes_aboveSelector⟩

/-- Settles O3: the one row of a word, and the decoder's answer in it. -/
theorem tableSelectsOneOperation : Obligations.TableSelectsOneOperation := by
  intro w
  obtain ⟨r₀, hr₀, hw⟩ := exists_row w
  have hdec := decodeSel_of_hits hr₀ (w := w) (by rw [hw r₀ hr₀, decide_eq_true rfl])
  rw [List.filter_congr hw, selTable_filter_eq r₀ hr₀, List.map_singleton, hdec]

/-- Settles O1: the decoder on sixteen fixed inputs. -/
theorem decodeSanityWords : Obligations.DecodeSanityWords := by
  unfold Obligations.DecodeSanityWords
  decide

/-- Bits 11 to 9 of a word hold the code of its phase (R98). -/
theorem Selector.word_phase (f : Selector) : f.word.extractLsb' 9 3 = f.phase.code := by
  apply BitVec.eq_of_getLsbD_eq
  intro i hi
  rw [BitVec.getLsbD_extractLsb', Selector.word_getLsbD]
  interval_cases i
  all_goals simp

namespace Machine

/-- Settles O5: the fields of a word stand where `Selector.word_getLsbD` puts them. -/
theorem selectorWordBits : Obligations.SelectorWordBits := by
  intro s
  have hbit : ∀ i, (fetchSel s).getLsbD i = _ := Selector.word_getLsbD (selector s)
  refine ⟨hbit 12, ?_, hbit 8, hbit 7, hbit 6, hbit 5, hbit 4, hbit 3, hbit 2, hbit 1, hbit 0⟩
  rw [fetchSel, Selector.word_phase, selector]
  cases s.phase
  all_goals rfl

/-- Settles O6: `step` is `exec` of the operation of the word, and then the next tick. -/
theorem stepRunsOperation : Obligations.StepRunsOperation := by
  rintro s i rfl
  rfl

/-- Settles O7: the one ill-formed operation is EDGE_SKIP with `l`, and slot 84 is never skipped. -/
theorem operationsWellFormed : Obligations.OperationsWellFormed := by
  intro s
  cases hop : operationAt s
  case edgeSkip l =>
    obtain ⟨-, hl, -⟩ := edgeSkipOperation
    rw [hl s l hop]
    rfl
  all_goals rfl

end Machine

end Sys2Proof
end

section
/-! PROOFS. What selects each operation, said once for all of them (30_encoding.md R100): the operation of a tick
without reset is a function of the registers and inputs that its phase looks at. -/

namespace Sys2Proof.Machine

/-- The operation that the state's registers select when it is in phase `p` and there is no reset (R100). -/
def phaseOperation (s : State) : Phase → Instr
  | .idle => if s.inputs.start then .read else .idle
  | .sModeOut => .startModeOut
  | .sHigh => .startHigh
  | .sWarmup => if s.timer.toNat = s.params.nWarmup - 1 then .startLow else .warmupWait
  | .sTrigger => if s.timer.toNat = s.params.nTrigger - 1 then .startRelease else .triggerWait
  | .sample =>
    if s.inputs.lineIn = s.lastLevel then
      (if s.counter.toNat = 254 then .pollTimeout else .pollSame)
    else if ¬ (4 ≤ s.slotIndex.toNat ∧ s.slotIndex.toNat % 2 = 0) then
      .edgeSkip (decide (s.slotIndex.toNat = 84))
    else if 40 ≤ s.bitCursor.toNat then .edgeOverrun (decide (s.slotIndex.toNat = 84))
    else if 16 < s.counter.toNat then .edgeBit1 (decide (s.slotIndex.toNat = 84))
    else .edgeBit0 (decide (s.slotIndex.toNat = 84))
  | .validate =>
    if s.bitCursor.toNat < 40 then .validateShort
    else if (s.buf.read 4).toNat = byteSum s.buf % 256 then .validateOk
    else .validateBadsum
  | .illegal => .illegalPhase

/-- The phase an operation belongs to; RESET belongs to all of them (R100). -/
def instrPhase : Instr → Option Phase
  | .reset => none
  | .idle | .read => some .idle
  | .startModeOut => some .sModeOut
  | .startHigh => some .sHigh
  | .warmupWait | .startLow => some .sWarmup
  | .triggerWait | .startRelease => some .sTrigger
  | .pollSame | .pollTimeout | .edgeSkip _ | .edgeBit0 _ | .edgeBit1 _ | .edgeOverrun _ => some .sample
  | .validateOk | .validateBadsum | .validateShort => some .validate
  | .illegalPhase => some .illegal

/-- A tick takes RESET or the operation of its phase. -/
theorem operationAt_eq_phaseOperation (s : State) :
    operationAt s = if s.inputs.rst then .reset else phaseOperation s s.phase := by
  rw [operationAt_of_registers]
  cases s.phase
  all_goals rfl

theorem operationAt_of_phase {s : State} {p : Phase} (hr : s.inputs.rst = false) (hp : s.phase = p) :
    operationAt s = phaseOperation s p := by
  rw [operationAt_eq_phaseOperation, hr, hp]
  rfl

theorem instrPhase_phaseOperation (s : State) (p : Phase) : instrPhase (phaseOperation s p) = some p := by
  cases p
  all_goals
    simp only [phaseOperation, apply_ite instrPhase]
    simp [instrPhase]

/-- What selects an operation: no reset, its phase, and there the tests of R100. -/
theorem operationAt_eq_iff {i : Instr} {p : Phase} (hi : instrPhase i = some p) (s : State) :
    operationAt s = i ↔ s.inputs.rst = false ∧ s.phase = p ∧ phaseOperation s p = i := by
  rw [operationAt_eq_phaseOperation]
  cases hr : s.inputs.rst
  case true =>
    have hne : i ≠ .reset := by
      rintro rfl
      simp [instrPhase] at hi
    simp [hne.symm]
  case false =>
    simp only [Bool.false_eq_true, if_false, true_and]
    constructor
    · rintro rfl
      rw [instrPhase_phaseOperation, Option.some_inj] at hi
      exact ⟨hi, by rw [hi]⟩
    · rintro ⟨rfl, h⟩
      exact h

/-! ### The operations one by one -/

theorem operationAt_eq_reset_iff (s : State) : operationAt s = .reset ↔ s.inputs.rst = true := by
  rw [operationAt_eq_phaseOperation]
  have hne : phaseOperation s s.phase ≠ .reset := by
    intro h
    have := instrPhase_phaseOperation s s.phase
    simp [h, instrPhase] at this
  cases s.inputs.rst
  case true => simp
  case false => simpa using hne

theorem operationAt_eq_read_iff (s : State) : operationAt s = .read ↔
    s.inputs.rst = false ∧ s.phase = .idle ∧ s.inputs.start = true := by
  rw [operationAt_eq_iff rfl]
  simp [phaseOperation]

theorem operationAt_eq_startModeOut_iff (s : State) : operationAt s = .startModeOut ↔
    s.inputs.rst = false ∧ s.phase = .sModeOut := by
  rw [operationAt_eq_iff rfl]
  simp [phaseOperation]

theorem operationAt_eq_warmupWait_iff (s : State) : operationAt s = .warmupWait ↔
    s.inputs.rst = false ∧ s.phase = .sWarmup ∧ s.timer.toNat ≠ s.params.nWarmup - 1 := by
  rw [operationAt_eq_iff rfl]
  simp [phaseOperation]

theorem operationAt_eq_startLow_iff (s : State) : operationAt s = .startLow ↔
    s.inputs.rst = false ∧ s.phase = .sWarmup ∧ s.timer.toNat = s.params.nWarmup - 1 := by
  rw [operationAt_eq_iff rfl]
  simp [phaseOperation]

theorem operationAt_eq_triggerWait_iff (s : State) : operationAt s = .triggerWait ↔
    s.inputs.rst = false ∧ s.phase = .sTrigger ∧ s.timer.toNat ≠ s.params.nTrigger - 1 := by
  rw [operationAt_eq_iff rfl]
  simp [phaseOperation]

theorem operationAt_eq_startRelease_iff (s : State) : operationAt s = .startRelease ↔
    s.inputs.rst = false ∧ s.phase = .sTrigger ∧ s.timer.toNat = s.params.nTrigger - 1 := by
  rw [operationAt_eq_iff rfl]
  simp [phaseOperation]

theorem operationAt_eq_pollTimeout_iff (s : State) : operationAt s = .pollTimeout ↔
    s.inputs.rst = false ∧ s.phase = .sample ∧ s.inputs.lineIn = s.lastLevel ∧ s.counter.toNat = 254 := by
  rw [operationAt_eq_iff rfl]
  simp only [phaseOperation, apply_ite (· = Instr.pollTimeout)]
  simp

/-- EDGE_OVERRUN with `l` is an edge in a data slot with no room left, and `l` says whether the slot is 84. -/
theorem operationAt_eq_edgeOverrun_iff (s : State) (l : Bool) : operationAt s = .edgeOverrun l ↔
    s.inputs.rst = false ∧ s.phase = .sample ∧ s.inputs.lineIn ≠ s.lastLevel ∧
      (4 ≤ s.slotIndex.toNat ∧ s.slotIndex.toNat % 2 = 0) ∧ 40 ≤ s.bitCursor.toNat ∧
      decide (s.slotIndex.toNat = 84) = l := by
  rw [operationAt_eq_iff rfl]
  simp only [phaseOperation, apply_ite (· = Instr.edgeOverrun l)]
  simp

theorem operationAt_eq_validateShort_iff (s : State) : operationAt s = .validateShort ↔
    s.inputs.rst = false ∧ s.phase = .validate ∧ s.bitCursor.toNat < 40 := by
  rw [operationAt_eq_iff rfl]
  simp only [phaseOperation, apply_ite (· = Instr.validateShort)]
  simp

theorem operationAt_eq_illegalPhase_iff (s : State) : operationAt s = .illegalPhase ↔
    s.inputs.rst = false ∧ s.phase = .illegal := by
  rw [operationAt_eq_iff rfl]
  simp [phaseOperation]

/-! ### Every tick has a next state -/

/-- A bit is stored only with the cursor below 40 (R65). -/
theorem bitCursor_lt_of_storesBit {s : State} (h : storesBit (operationAt s) = true) :
    s.bitCursor.toNat < 40 := by
  cases hop : operationAt s
  case edgeBit0 l =>
    obtain ⟨-, -, -, -, hlt, -⟩ := (operationAt_eq_edgeBit_iff s false l).mp hop
    exact hlt
  case edgeBit1 l =>
    obtain ⟨-, -, -, -, hlt, -⟩ := (operationAt_eq_edgeBit_iff s true l).mp hop
    exact hlt
  all_goals simp [hop, storesBit] at h

/-- An operation has a next state, unless it stores a bit and there is no byte for it. -/
theorem exec_next_of_room {i : Instr} {s : State} (h : storesBit i = true → s.bitCursor.toNat < 40) :
    ∃ u, exec i s = .next u := by
  cases i
  case edgeBit0 l => exact ⟨_, edgeBit_of_lt (h rfl) false l⟩
  case edgeBit1 l => exact ⟨_, edgeBit_of_lt (h rfl) true l⟩
  all_goals exact ⟨_, rfl⟩

/-- The operation of a tick always has a next state. -/
theorem exec_operationAt (s : State) : ∃ u, exec (operationAt s) s = .next u :=
  exec_next_of_room bitCursor_lt_of_storesBit

theorem step_next (s : State) : ∃ t, step s = .next t := by
  obtain ⟨u, hu⟩ := exec_operationAt s
  exact ⟨_, step_of_exec hu⟩

/-! ### The statements -/

/-- Settles O44: no tick stores a bit without a byte for it, and no other operation can stop. -/
theorem everyTickTakesItsOperation : Obligations.EveryTickTakesItsOperation := by
  intro s
  obtain ⟨u, hu⟩ := exec_operationAt s
  exact ⟨_, u, hu, step_of_exec hu, rfl⟩

/-- Settles O23: a store at a cursor of 40 or more faults, and no tick takes one. -/
theorem noByteBeyondTheBuffer : Obligations.NoByteBeyondTheBuffer := by
  refine ⟨fun s l h => ?_, fun s => bitCursor_lt_of_storesBit⟩
  rw [exec_edgeBit0, exec_edgeBit1, edgeBit_of_ge h, edgeBit_of_ge h, byteIndex_eq]
  exact ⟨rfl, rfl⟩

/-- Settles O8: the reset state, register by register. -/
theorem resetValues : Obligations.ResetValues :=
  ⟨rfl, rfl, rfl, rfl, rfl, fun _ => rfl, rfl, rfl, rfl, rfl, rfl, rfl, rfl, rfl, rfl, rfl⟩

/-- Settles O9: RESET goes before every phase, and its effect is the reset state but for the model's own
fields. -/
theorem resetOperation : Obligations.ResetOperation :=
  ⟨operationAt_eq_reset_iff, fun _ => rfl⟩

/-- Settles O11: what selects READ, and each field of its next state. -/
theorem readOperation : Obligations.ReadOperation :=
  ⟨operationAt_eq_read_iff, fun s => ⟨_, exec_read s, rfl, fun _ => rfl, rfl, rfl, rfl, rfl, rfl, rfl, rfl, rfl,
    rfl, rfl, rfl, rfl, rfl, rfl, rfl, rfl, rfl⟩⟩

/-- Settles O12: what selects START_MODE_OUT, its effect, and the level that READ has preloaded. -/
theorem startModeOutOperation : Obligations.StartModeOutOperation := by
  refine ⟨operationAt_eq_startModeOut_iff, exec_startModeOut, fun s t hInv hp h => ?_⟩
  have hoe : s.lineOe = .input := by
    cases hoe : s.lineOe
    case input => rfl
    case output => simpa [hp, drivesLine] using hInv.drive.mp hoe
  have hout : s.lineOut = .high := hInv.outLevel .high (by rw [hp]; rfl)
  rw [exec_startModeOut] at h
  cases h
  simp [lineDriven, hoe, hout]

/-- Below the last value of a hold the timer does not wrap. -/
theorem timer_add_one {x : BitVec 16} {n : Nat} (h : x.toNat < n) (hn : n < 2 ^ 16) :
    (x + 1).toNat = x.toNat + 1 := by
  bv_omega

/-- Settles O14: what selects the two operations of phase S_WARMUP, and their effects. -/
theorem warmupHold : Obligations.WarmupHold :=
  ⟨fun s => ⟨operationAt_eq_warmupWait_iff s, operationAt_eq_startLow_iff s⟩,
    fun s => ⟨exec_warmupWait s, fun h => timer_add_one h s.params.warmupLast.isLt⟩, exec_startLow⟩

/-- Settles O15: what selects the two operations of phase S_TRIGGER, and their effects. -/
theorem triggerHold : Obligations.TriggerHold :=
  ⟨fun s => ⟨operationAt_eq_triggerWait_iff s, operationAt_eq_startRelease_iff s⟩,
    fun s => ⟨exec_triggerWait s, fun h => timer_add_one h s.params.triggerLast.isLt⟩, exec_startRelease⟩

/-- Settles O18: what selects POLL_TIMEOUT, and its effect. -/
theorem pollTimeoutOperation : Obligations.PollTimeoutOperation :=
  ⟨operationAt_eq_pollTimeout_iff, exec_pollTimeout⟩

/-- Settles O39: phase 7 takes ILLEGAL_PHASE, and its effect. -/
theorem illegalPhaseOperation : Obligations.IllegalPhaseOperation :=
  ⟨operationAt_eq_illegalPhase_iff, exec_illegalPhase⟩

end Sys2Proof.Machine
end

section
/-! PROOFS. The invariant of a run (10_state.md R42): it holds at reset, each operation keeps it where its selector
word names it, and it says what the spec's list says. -/

namespace Sys2Proof.Machine

/-! ### Levels and cursors by slot (R25, R166) -/

theorem levelOfRun_succ (k : Nat) : levelOfRun (k + 1) = if levelOfRun k = .high then .low else .high := by
  have hflip : (k + 1) % 2 = 0 ↔ ¬ k % 2 = 0 := by omega
  by_cases hk : k % 2 = 0
  all_goals simp [levelOfRun, hflip, hk]

/-- There are two levels, so the one that is not the level of a run is the level of the next. -/
theorem eq_levelOfRun_succ {l : Level} {k : Nat} (h : l ≠ levelOfRun k) : l = levelOfRun (k + 1) := by
  rw [levelOfRun_succ]
  cases hk : levelOfRun k
  all_goals
    rw [hk] at h
    cases l
    all_goals simp at h ⊢

/-- A data slot brings one more bit (R166). -/
theorem bitsBefore_succ_of_data {k : Nat} (h : 4 ≤ k ∧ k % 2 = 0) : bitsBefore (k + 1) = bitsBefore k + 1 := by
  unfold bitsBefore
  split_ifs
  all_goals omega

/-- Any other slot brings none (R166). -/
theorem bitsBefore_succ_of_not_data {k : Nat} (h : ¬ (4 ≤ k ∧ k % 2 = 0)) :
    bitsBefore (k + 1) = bitsBefore k := by
  unfold bitsBefore
  split_ifs
  all_goals omega

/-- Up to slot 84 the buffer is full exactly from slot 83 on. -/
theorem bitsBefore_lt_iff (k : Nat) : bitsBefore k < 40 ↔ k ≤ 82 := by
  unfold bitsBefore
  split_ifs
  all_goals omega

/-! ### What the invariant gives in a phase -/

/-- During a read there is no result yet (R33, R42). -/
theorem Inv.no_result {s : State} (h : Inv s) (hp : s.phase ≠ .idle) : s.done = false ∧ s.status = .none := by
  have hdone : s.done = false := Bool.eq_false_iff.mpr fun hd => hp (h.doneIdle hd)
  refine ⟨hdone, ?_⟩
  by_contra hs
  exact Bool.false_ne_true (hdone.symm.trans (h.doneStatus.mpr hs))

/-- The line is released in every phase but three (R42). -/
theorem Inv.lineOe_input {s : State} (h : Inv s) (hp : drivesLine s.phase = false) : s.lineOe = .input := by
  cases hoe : s.lineOe
  case input => rfl
  case output => exact absurd (h.drive.mp hoe) (by simp [hp])

/-- In phase SAMPLE slot 85 has not come, so there was no overrun (R42). -/
theorem Inv.no_overrun {s : State} (h : Inv s) (hp : s.phase = .sample) : s.overrun = false := by
  refine Bool.eq_false_iff.mpr fun ho => ?_
  have h85 := h.overrunSlot.mp ho
  have h84 := (h.sampling hp).1
  omega

/-- A data slot with room for its bit is not slot 84 (R166). -/
theorem Inv.slot_ne_84 {s : State} (h : Inv s) (hlt : s.bitCursor.toNat < 40) : s.slotIndex.toNat ≠ 84 := by
  rw [h.cursorOfSlot, bitsBefore_lt_iff] at hlt
  omega

/-- In phase SAMPLE only slot 84 is a data slot without room, and 40 bits are in (R166). -/
theorem Inv.slot_eq_84 {s : State} (h : Inv s) (hp : s.phase = .sample) (hdata : s.slotIndex.toNat % 2 = 0)
    (hfull : 40 ≤ s.bitCursor.toNat) : s.slotIndex.toNat = 84 ∧ s.bitCursor.toNat = 40 := by
  have hle := (h.sampling hp).1
  have hcur := h.cursorOfSlot
  have hge : ¬ s.slotIndex.toNat ≤ 82 := by
    rw [← bitsBefore_lt_iff, ← hcur]
    omega
  have h84 : s.slotIndex.toNat = 84 := by omega
  exact ⟨h84, by rw [hcur, h84]; rfl⟩

/-- After a timeout the read is to be validated or has ended (R145). -/
theorem Inv.phase_of_timeout {s : State} (h : Inv s) (ht : s.timeout = true) :
    s.phase = .validate ∨ s.phase = .idle := by
  have hc := h.timeoutCount.mp ht
  have hstart := h.starting
  have hsample := h.sampling
  have hlegal := h.phaseLegal
  cases hp : s.phase
  case validate => exact .inl rfl
  case idle => exact .inr rfl
  case sample => simp [hp, ht] at hsample
  case illegal => exact absurd hp hlegal
  all_goals
    obtain ⟨-, h0⟩ := hstart (by simp [hp])
    simp [h0] at hc

/-! ### The bytes stay right-aligned (R63, R165) -/

/-- A byte of m bits with one more shifted in is a byte of m + 1 bits. -/
theorem shiftIn_lt {v : Byte} {m : Nat} (hv : v.toNat < 2 ^ m) (b : Bool) :
    (shiftIn v b).toNat < 2 ^ (m + 1) := by
  have hb := b.toNat_lt
  have hmod := Nat.mod_le (2 * v.toNat) 256
  rw [shiftIn_toNat, Nat.pow_succ]
  omega

/-- A stored bit keeps every byte right-aligned, for the cursor that has advanced. -/
theorem rightAligned_store {m : Memory} {c : Nat}
    (h : ∀ k, k < 5 → (m.read k).toNat < 2 ^ min 8 (c - 8 * k)) (b : Bool) (k : Nat) (hk : k < 5) :
    ((m.write (c / 8) (shiftIn (m.read (c / 8)) b)).read k).toNat < 2 ^ min 8 (c + 1 - 8 * k) := by
  rw [read_write]
  split
  case isTrue heq =>
    have hbyte : (m.read (c / 8)).toNat < 2 ^ (c % 8) := by
      have := h (c / 8) (by omega)
      rwa [show min 8 (c - 8 * (c / 8)) = c % 8 by omega] at this
    rw [show min 8 (c + 1 - 8 * k) = c % 8 + 1 by omega]
    exact shiftIn_lt hbyte b
  case isFalse hne =>
    rw [show min 8 (c + 1 - 8 * k) = min 8 (c - 8 * k) by omega]
    exact h k hk

/-! ### Data and phase

A state parked in phase IDLE meets the invariant exactly as far as its slot, count, bits and result do; what is left
is the few facts that belong to the phase. So an operation that changes the phase is checked in these two parts. -/

/-- The state with the registers of its phase, its pin and its line at rest. -/
def State.parked (s : State) : State :=
  { s with phase := .idle, pin := 0, timer := 0, lineOe := .input, lineOut := .high }

theorem Inv.parked {s : State} (h : Inv s) : Inv s.parked :=
  { h with
    pinFits := Nat.two_pow_pos _
    pinIdle := fun _ => rfl
    phaseLegal := by simp [State.parked]
    sampling := by simp [State.parked]
    starting := by simp [State.parked]
    validating := by simp [State.parked]
    drive := by simp [State.parked, drivesLine]
    outLevel := by simp [State.parked, lineOutIn]
    timerIdle := fun _ _ => rfl
    timerWarmup := by simp [State.parked]
    timerTrigger := by simp [State.parked]
    doneIdle := fun _ => rfl }

/-- What belongs to the phase at the tick that enters a phase of a read. -/
structure Entered (s : State) : Prop where
  running : s.phase ≠ .idle ∧ s.phase ≠ .illegal
  noResult : s.done = false
  pinFits : s.pin < 2 ^ s.params.pinW
  timer : s.timer = 0
  starting : s.phase = .sModeOut ∨ s.phase = .sHigh ∨ s.phase = .sWarmup ∨ s.phase = .sTrigger →
    s.slotIndex = 0 ∧ s.counter = 0
  sampling : s.phase = .sample → s.slotIndex.toNat ≤ 84 ∧ s.timeout = false
  validating : s.phase = .validate → s.timeout = true ∨ s.overrun = true
  drive : s.lineOe = .output ↔ drivesLine s.phase = true
  outLevel : ∀ l, lineOutIn s.phase = some l → s.lineOut = l

theorem Entered.inv {s : State} (e : Entered s) (h : Inv s.parked) : Inv s :=
  { e, h with
    pinIdle := fun hp => absurd hp e.running.1
    phaseLegal := e.running.2
    timerIdle := fun _ _ => e.timer
    timerWarmup := fun _ => by simp [e.timer]
    timerTrigger := fun _ => by simp [e.timer]
    doneIdle := by simp [e.noResult] }

/-! ### Each operation keeps the invariant -/

/-- The inputs are no part of the invariant. -/
theorem Inv.after_nextTick {s : State} (h : Inv s) : Inv s.nextTick := { h with }

/-- With the capture cleared every register of the parked state has its reset value (R39, R40). -/
theorem inv_clearCapture_parked (s : State) : Inv (clearCapture s).parked := by
  constructor
  all_goals
    simp [State.parked, clearCapture, Memory.wf, levelOfRun, bitsBefore, unlistedByte, drivesLine, lineOutIn]

/-- RESET leaves the block parked (R220). -/
theorem inv_reset (s : State) : Inv { clearCapture s with phase := .idle, pin := 0, lineOe := .input } :=
  inv_clearCapture_parked s

/-- READ, with the line released as it is in phase IDLE (R40). -/
theorem Inv.after_read {s : State} (h : Inv s) (hp : s.phase = .idle) :
    Inv { clearCapture s with pin := pinPort s, phase := .sModeOut } :=
  have hoe := h.lineOe_input (by rw [hp]; rfl)
  Entered.inv (h := inv_clearCapture_parked s)
  { running := by simp
    noResult := rfl
    pinFits := Nat.mod_lt _ (Nat.two_pow_pos _)
    timer := rfl
    starting := by simp
    sampling := by simp
    validating := by simp
    drive := by simp [hoe, drivesLine]
    outLevel := by simp [lineOutIn] }

theorem Inv.after_startModeOut {s : State} (h : Inv s) (hp : s.phase = .sModeOut) :
    Inv { lineMode .output s with phase := .sHigh } :=
  Entered.inv (h := h.parked)
  { running := by simp
    noResult := (h.no_result (by simp [hp])).1
    pinFits := h.pinFits
    timer := h.timerIdle (by simp [hp]) (by simp [hp])
    starting := fun _ => h.starting (.inl hp)
    sampling := by simp
    validating := by simp
    drive := by simp [drivesLine]
    outLevel := fun l hl => h.outLevel l (by rw [hp]; exact hl) }

theorem Inv.after_startHigh {s : State} (h : Inv s) (hp : s.phase = .sHigh) :
    Inv { lineWrite .high s with timer := 0, phase := .sWarmup } :=
  Entered.inv (h := h.parked)
  { running := by simp
    noResult := (h.no_result (by simp [hp])).1
    pinFits := h.pinFits
    timer := rfl
    starting := fun _ => h.starting (.inr (.inl hp))
    sampling := by simp
    validating := by simp
    drive := by simpa [hp, drivesLine] using h.drive
    outLevel := by simp [lineOutIn] }

theorem Inv.after_startLow {s : State} (h : Inv s) (hp : s.phase = .sWarmup) :
    Inv { lineWrite .low s with timer := 0, phase := .sTrigger } :=
  Entered.inv (h := h.parked)
  { running := by simp
    noResult := (h.no_result (by simp [hp])).1
    pinFits := h.pinFits
    timer := rfl
    starting := fun _ => h.starting (.inr (.inr (.inl hp)))
    sampling := by simp
    validating := by simp
    drive := by simpa [hp, drivesLine] using h.drive
    outLevel := by simp [lineOutIn] }

/-- START_RELEASE: the counter it clears is 0 already, so nothing was counted to the ceiling (R40, R127). -/
theorem Inv.after_startRelease {s : State} (h : Inv s) (hp : s.phase = .sTrigger) :
    Inv { lineMode .input s with timer := 0, counter := 0, phase := .sample } := by
  obtain ⟨hslot, hcount⟩ := h.starting (.inr (.inr (.inr hp)))
  have htimeout : s.timeout = false := by simpa [hcount] using h.timeoutCount
  exact Entered.inv (h := { h.parked with
      starting := by simp [State.parked]
      timeoutCount := by simp [State.parked, htimeout] })
    { running := by simp
      noResult := (h.no_result (by simp [hp])).1
      pinFits := h.pinFits
      timer := rfl
      starting := by simp
      sampling := by simp [hslot, htimeout]
      validating := by simp
      drive := by simp [drivesLine]
      outLevel := fun l hl => h.outLevel l (by rw [hp]; exact hl) }

theorem Inv.after_warmupWait {s : State} (h : Inv s) (hp : s.phase = .sWarmup)
    (ht : s.timer.toNat ≠ s.params.nWarmup - 1) : Inv { s with timer := s.timer + 1 } :=
  have hlt : s.timer.toNat < s.params.warmupLast.toNat := lt_of_le_of_ne (h.timerWarmup hp) ht
  { h with
    timerIdle := by simp [hp]
    timerWarmup := fun _ => (timer_add_one hlt (BitVec.isLt _)).trans_le hlt
    timerTrigger := by simp [hp] }

theorem Inv.after_triggerWait {s : State} (h : Inv s) (hp : s.phase = .sTrigger)
    (ht : s.timer.toNat ≠ s.params.nTrigger - 1) : Inv { s with timer := s.timer + 1 } :=
  have hlt : s.timer.toNat < s.params.triggerLast.toNat := lt_of_le_of_ne (h.timerTrigger hp) ht
  { h with
    timerIdle := by simp [hp]
    timerWarmup := by simp [hp]
    timerTrigger := fun _ => (timer_add_one hlt (BitVec.isLt _)).trans_le hlt }

theorem Inv.after_pollSame {s : State} (h : Inv s) (hp : s.phase = .sample) (hc : s.counter.toNat ≠ 254) :
    Inv { s with counter := s.counter + 1 } :=
  have hle := h.counter_le_of_sample hp
  have htimeout := (h.sampling hp).2
  { h with
    timeoutCount := by
      simp only [htimeout, Bool.false_eq_true, false_iff]
      bv_omega
    starting := by simp [hp] }

theorem Inv.after_pollTimeout {s : State} (h : Inv s) (hp : s.phase = .sample) :
    Inv { s with counter := BitVec.ofNat 8 Config.countCeil, timeout := true, phase := .validate } :=
  Entered.inv
    (h := { h.parked with
      starting := by simp [State.parked]
      sampling := by simp [State.parked]
      validating := by simp [State.parked]
      timeoutCount := by simp [State.parked]
      timeoutSlot := fun _ => (h.sampling hp).1
      doneExit := fun _ => .inl rfl })
  { running := by simp
    noResult := (h.no_result (by simp [hp])).1
    pinFits := h.pinFits
    timer := h.timerIdle (by simp [hp]) (by simp [hp])
    starting := by simp
    sampling := by simp
    validating := fun _ => .inl rfl
    drive := by simpa [hp, drivesLine] using h.drive
    outLevel := fun l hl => h.outLevel l (by rw [hp]; exact hl) }

/-- The end of a slot (R143), for a buffer and a cursor that suit the next slot: the level flips, and the slot
is left for VALIDATE, with the overrun flagged, exactly if it is slot 84. -/
theorem Inv.after_endSlot {s : State} {m : Memory} {c : BitVec 6} {last : Bool} (h : Inv s) (hp : s.phase = .sample)
    (hl : s.inputs.lineIn ≠ s.lastLevel) (hlast : last = decide (s.slotIndex.toNat = 84)) (hwf : m.wf = true)
    (hcur : c.toNat = bitsBefore (s.slotIndex.toNat + 1))
    (hal : ∀ k, k < 5 → (m.read k).toNat < 2 ^ min 8 (c.toNat - 8 * k)) :
    Inv (endSlot last { s with buf := m, bitCursor := c, overrun := last }) := by
  obtain ⟨hdone, hstatus⟩ := h.no_result (by simp [hp])
  obtain ⟨hle, htimeout⟩ := h.sampling hp
  have hslot : (s.slotIndex + 1).toNat = s.slotIndex.toNat + 1 := by bv_omega
  have hdata : Inv (endSlot last { s with buf := m, bitCursor := c, overrun := last }).parked :=
    { h.parked with
      bufWf := hwf
      slotLe := hslot.trans_le (by omega)
      levelParity := by
        rw [h.levelParity] at hl
        exact (eq_levelOfRun_succ hl).trans (by rw [← hslot]; rfl)
      cursorOfSlot := hcur.trans (by rw [← hslot]; rfl)
      timeoutCount := by simp [State.parked, htimeout]
      timeoutSlot := by simp [State.parked, htimeout]
      overrunSlot := by
        change last = true ↔ (s.slotIndex + 1).toNat = 85
        rw [hslot, hlast, decide_eq_true_iff]
        omega
      starting := by simp [State.parked]
      sampling := by simp [State.parked]
      validating := by simp [State.parked]
      doneExit := by simp [State.parked, hdone]
      okSound := by simp [State.parked, hstatus]
      mismatchSound := by simp [State.parked, hstatus]
      shortSound := by simp [State.parked, hstatus]
      rightAligned := hal }
  have hsampling : (if last then Phase.validate else .sample) = .sample →
      (s.slotIndex + 1).toNat ≤ 84 ∧ s.timeout = false := by
    intro hphase
    have hne : ¬ s.slotIndex.toNat = 84 := by
      intro h84
      simp [hlast, h84] at hphase
    exact ⟨by omega, htimeout⟩
  refine Entered.inv (h := hdata) ?_
  cases last
  all_goals exact
    { running := by simp
      noResult := hdone
      pinFits := h.pinFits
      timer := h.timerIdle (by simp [hp]) (by simp [hp])
      starting := by simp
      sampling := hsampling
      validating := by simp
      drive := by simpa [hp, drivesLine] using h.drive
      outLevel := fun l hl => h.outLevel l (by rw [hp]; exact hl) }

/-- How a read ends (R175), for a code and result fields that suit the capture. -/
theorem Inv.after_finishRead {s : State} {code : Status} {hum temp : Byte} (h : Inv s) (hp : s.phase = .validate)
    (hcode : code ≠ .none)
    (hok : code = .ok → 40 ≤ s.bitCursor.toNat ∧ s.buf.read 4 = checksum s.buf ∧
      hum = s.buf.read 0 ∧ temp = s.buf.read 2)
    (hmismatch : code = .checksumMismatch → (40 ≤ s.bitCursor.toNat ∧ s.buf.read 4 ≠ checksum s.buf) ∨
      (s.bitCursor.toNat < 40 ∧ s.params.errMode = .combined))
    (hshort : code = .incompleteCapture → s.bitCursor.toNat < 40 ∧ s.params.errMode = .distinct)
    (hzero : code ≠ .ok → hum = 0 ∧ temp = 0) :
    Inv { finishRead code s with humidity := hum, temperature := temp } :=
  { h with
    pinFits := Nat.two_pow_pos _
    pinIdle := fun _ => rfl
    phaseLegal := by simp
    sampling := by simp
    starting := by simp
    validating := by simp
    drive := by simpa [hp, drivesLine] using h.drive
    outLevel := by simp [lineOutIn]
    timerIdle := fun _ _ => h.timerIdle (by simp [hp]) (by simp [hp])
    timerWarmup := by simp
    timerTrigger := by simp
    doneStatus := by simp [hcode]
    doneIdle := fun _ => rfl
    doneExit := fun _ => h.validating hp
    okSound := hok
    mismatchSound := hmismatch
    shortSound := hshort
    fieldsZero := hzero }

/-- EDGE_SKIP is no data slot: neither the buffer nor the cursor changes (R144). -/
theorem Inv.after_edgeSkip {s : State} {l : Bool} (h : Inv s) (hop : operationAt s = .edgeSkip l) :
    Inv (endSlot l s) := by
  obtain ⟨-, hp, hl, hslot, rfl⟩ := (operationAt_eq_edgeSkip_iff s l).mp hop
  have hcur : s.bitCursor.toNat = bitsBefore (s.slotIndex.toNat + 1) :=
    h.cursorOfSlot.trans (bitsBefore_succ_of_not_data hslot).symm
  have hu := h.after_endSlot hp hl rfl h.bufWf hcur h.rightAligned
  have h84 : decide (s.slotIndex.toNat = 84) = s.overrun := by
    rw [h.no_overrun hp, decide_eq_false_iff_not]
    omega
  rwa [h84] at hu ⊢

/-- A stored bit is the next of the slot's count of bits (R162, R163). -/
theorem Inv.after_edgeBit {s u : State} {b l : Bool} (h : Inv s)
    (hop : operationAt s = if b then .edgeBit1 l else .edgeBit0 l) (hu : edgeBit b l s = .next u) : Inv u := by
  obtain ⟨-, hp, hl, hdata, hlt, -, hlast⟩ := (operationAt_eq_edgeBit_iff s b l).mp hop
  obtain ⟨-, rfl⟩ := edgeBit_next_iff.mp hu
  have hbyte : byteIndex s.bitCursor < Config.nBytes := (byteIndex_lt_iff _).mpr hlt
  have hsucc : (s.bitCursor + 1).toNat = s.bitCursor.toNat + 1 := by bv_omega
  have hcur : (s.bitCursor + 1).toNat = bitsBefore (s.slotIndex.toNat + 1) := by
    rw [hsucc, h.cursorOfSlot, bitsBefore_succ_of_data hdata]
  have hal := rightAligned_store h.rightAligned b
  rw [← byteIndex_eq, ← hsucc] at hal
  have hno : l = s.overrun := by
    rw [h.no_overrun hp, ← hlast, decide_eq_false_iff_not]
    exact h.slot_ne_84 hlt
  have hu := h.after_endSlot hp hl hlast.symm (wf_write h.bufWf hbyte _) hcur hal
  rwa [hno] at hu ⊢

/-- EDGE_OVERRUN comes in slot 84, where the cursor goes to 41 and every byte is full (R164). -/
theorem Inv.after_edgeOverrun {s : State} {l : Bool} (h : Inv s) (hop : operationAt s = .edgeOverrun l) :
    Inv (endSlot l { s with overrun := true, bitCursor := s.bitCursor + 1 }) := by
  obtain ⟨-, hp, hl, hdata, hfull, hlast⟩ := (operationAt_eq_edgeOverrun_iff s l).mp hop
  obtain ⟨h84, h40⟩ := h.slot_eq_84 hp hdata.2 hfull
  have hsucc : (s.bitCursor + 1).toNat = s.bitCursor.toNat + 1 := by bv_omega
  have hcur : (s.bitCursor + 1).toNat = bitsBefore (s.slotIndex.toNat + 1) := by
    rw [hsucc, h.cursorOfSlot, bitsBefore_succ_of_data hdata]
  have hal : ∀ k, k < 5 → (s.buf.read k).toNat < 2 ^ min 8 ((s.bitCursor + 1).toNat - 8 * k) := by
    intro k hk
    have hm : min 8 ((s.bitCursor + 1).toNat - 8 * k) = min 8 (s.bitCursor.toNat - 8 * k) := by omega
    rw [hm]
    exact h.rightAligned k hk
  have hl1 : l = true := by
    rw [← hlast, decide_eq_true_iff]
    exact h84
  have hu := h.after_endSlot hp hl hlast.symm h.bufWf hcur hal
  rwa [hl1] at hu ⊢

/-- The checksum condition of R170 on bytes, in the words of the invariant (R171). -/
theorem read_four_eq_checksum_iff (s : State) :
    s.buf.read 4 = checksum s.buf ↔ (s.buf.read 4).toNat = byteSum s.buf % 256 := by
  rw [← condSumok_iff, condSumok, beq_iff_eq]

theorem Inv.after_validateOk {s : State} (h : Inv s) (hop : operationAt s = .validateOk) :
    Inv { finishRead .ok s with humidity := s.buf.read 0, temperature := s.buf.read 2 } := by
  obtain ⟨-, hp, hfull, hsum⟩ := (operationAt_eq_validateOk_iff s).mp hop
  have hsum := (read_four_eq_checksum_iff s).mpr hsum
  exact h.after_finishRead hp (by simp) (fun _ => ⟨hfull, hsum, rfl, rfl⟩) (by simp) (by simp) (by simp)

theorem Inv.after_validateBadsum {s : State} (h : Inv s) (hop : operationAt s = .validateBadsum) :
    Inv (finishRead .checksumMismatch s) := by
  obtain ⟨-, hp, hfull, hsum⟩ := (operationAt_eq_validateBadsum_iff s).mp hop
  have hsum := (not_congr (read_four_eq_checksum_iff s)).mpr hsum
  exact h.after_finishRead hp (by simp) (by simp) (fun _ => .inl ⟨hfull, hsum⟩) (by simp)
    fun _ => h.fieldsZero_of_validate hp

theorem Inv.after_validateShort {s : State} (h : Inv s) (hop : operationAt s = .validateShort) :
    Inv (finishRead (shortCode s.params.errMode) s) := by
  obtain ⟨-, hp, hlt⟩ := (operationAt_eq_validateShort_iff s).mp hop
  have hzero := h.fieldsZero_of_validate hp
  cases hmode : s.params.errMode
  all_goals rw [shortCode]
  case combined =>
    exact h.after_finishRead hp (by simp) (by simp) (fun _ => .inr ⟨hlt, hmode⟩) (by simp) fun _ => hzero
  case distinct =>
    exact h.after_finishRead hp (by simp) (by simp) (by simp) (fun _ => ⟨hlt, hmode⟩) fun _ => hzero

/-- The operation of a tick keeps the invariant. -/
theorem Inv.after_exec {s u : State} (h : Inv s) (hu : exec (operationAt s) s = .next u) : Inv u := by
  cases hop : operationAt s
  all_goals rw [hop] at hu
  case edgeBit0 l => exact h.after_edgeBit (b := false) hop hu
  case edgeBit1 l => exact h.after_edgeBit (b := true) hop hu
  all_goals cases hu
  case reset => exact inv_reset s
  case idle => exact h
  case read => exact h.after_read ((operationAt_eq_read_iff s).mp hop).2.1
  case startModeOut => exact h.after_startModeOut ((operationAt_eq_startModeOut_iff s).mp hop).2
  case startHigh => exact h.after_startHigh ((operationAt_eq_startHigh_iff s).mp hop).2
  case warmupWait =>
    obtain ⟨-, hp, ht⟩ := (operationAt_eq_warmupWait_iff s).mp hop
    exact h.after_warmupWait hp ht
  case startLow => exact h.after_startLow ((operationAt_eq_startLow_iff s).mp hop).2.1
  case triggerWait =>
    obtain ⟨-, hp, ht⟩ := (operationAt_eq_triggerWait_iff s).mp hop
    exact h.after_triggerWait hp ht
  case startRelease => exact h.after_startRelease ((operationAt_eq_startRelease_iff s).mp hop).2.1
  case pollSame =>
    obtain ⟨-, hp, -, hc⟩ := (operationAt_eq_pollSame_iff s).mp hop
    exact h.after_pollSame hp hc
  case pollTimeout => exact h.after_pollTimeout ((operationAt_eq_pollTimeout_iff s).mp hop).2.1
  case edgeSkip l => exact h.after_edgeSkip hop
  case edgeOverrun l => exact h.after_edgeOverrun hop
  case validateOk => exact h.after_validateOk hop
  case validateBadsum => exact h.after_validateBadsum hop
  case validateShort => exact h.after_validateShort hop
  case illegalPhase => exact absurd ((operationAt_eq_illegalPhase_iff s).mp hop).2 h.phaseLegal

theorem Inv.after_step {s t : State} (h : Inv s) (ht : step s = .next t) : Inv t := by
  obtain ⟨u, hu, rfl⟩ := step_next_iff.mp ht
  exact (h.after_exec hu).after_nextTick

/-! ### The statements -/

/-- Settles O46: the operation of a tick keeps the invariant, and the inputs are no part of it. -/
theorem invariantKept : Obligations.InvariantKept := fun _ _ => Inv.after_step

/-- Settles O45: the reset state is what RESET leaves. -/
theorem invariantAtReset : Obligations.InvariantAtReset := inv_reset State.reset

/-- Settles O47: each clause from the fields of the invariant. -/
theorem invariantSaysTheSpecsList : Obligations.InvariantSaysTheSpecsList := by
  intro s h
  have hcur := h.cursorOfSlot
  have hslot := h.slotLe
  refine ⟨h.phaseLegal, hslot, ?_, fun hc => ?_, fun hp => ?_, fun ho => ?_, fun hp => ?_, fun hoe => ?_,
    h.doneIdle, fun k hk hle => ?_, fun hp h4 heven => ?_, fun ht => ?_, h.doneStatus⟩
  · rw [hcur]
    unfold bitsBefore
    split_ifs
    all_goals omega
  · have ht := h.timeoutCount.mpr hc
    exact ⟨ht, h.phase_of_timeout ht⟩
  · obtain ⟨hle, htimeout⟩ := h.sampling hp
    exact ⟨hle, h.counter_le_of_sample hp, h.lineOe_input (by rw [hp]; rfl), htimeout, h.no_overrun hp⟩
  · have h85 := h.overrunSlot.mp ho
    exact ⟨by rw [hcur, h85]; rfl, h85⟩
  · exact h.lineOe_input (by rw [hp]; rfl)
  · have hd := h.drive.mp hoe
    cases hp : s.phase
    all_goals simp [hp, drivesLine] at hd ⊢
  · have hlt := h.rightAligned k hk
    rw [Nat.sub_eq_zero_of_le hle] at hlt
    exact BitVec.eq_of_toNat_eq (by simpa using hlt)
  · refine ⟨?_, ?_⟩
    · rw [h.levelParity, levelOfRun, if_pos heven]
    · rw [hcur, bitsBefore]
      split_ifs
      all_goals omega
  · rw [hcur, bitsBefore_lt_iff]

end Sys2Proof.Machine
end

section
/-! PROOFS. What each operation leaves unchanged (the frames of 40_, 41_, 42_, 43_ and 70_), which operation writes
which register (10_state.md R20 to R34), and the model's own fields. -/

namespace Sys2Proof.Machine

/-! ### The model's own fields (logs 1 and 3) -/

/-- No operation writes the parameters, the inputs or the tick number. -/
theorem exec_keeps_own {i : Instr} {s u : State} (h : exec i s = .next u) :
    u.params = s.params ∧ u.script = s.script ∧ u.tick = s.tick := by
  cases i
  case edgeBit0 | edgeBit1 =>
    obtain ⟨-, rfl⟩ := edgeBit_next_iff.mp h
    exact ⟨rfl, rfl, rfl⟩
  all_goals
    cases h
    exact ⟨rfl, rfl, rfl⟩

theorem step_params {s t : State} (h : step s = .next t) : t.params = s.params := by
  obtain ⟨u, hu, rfl⟩ := step_next_iff.mp h
  exact (exec_keeps_own hu).1

theorem step_inputAt {s t : State} (h : step s = .next t) (j : Nat) : t.inputAt j = s.inputAt (j + 1) := by
  obtain ⟨u, hu, rfl⟩ := step_next_iff.mp h
  obtain ⟨-, hscript, htick⟩ := exec_keeps_own hu
  rw [nextTick_inputAt, inputAt_congr hscript htick]

/-- Settles O51: the parameters stay and one input is used up. -/
theorem ticksConsumeOneInput : Obligations.TicksConsumeOneInput := by
  intro s t h
  refine ⟨step_params h, ?_, step_inputAt h⟩
  obtain ⟨u, hu, rfl⟩ := step_next_iff.mp h
  rw [nextTick_tick, (exec_keeps_own hu).2.2]

/-! ### Frames -/

/-- What a stored bit changes besides the buffer: the cursor and what the end of a slot writes. -/
theorem edgeBit_frame {b l : Bool} {s t : State} (h : edgeBit b l s = .next t) :
    t = { s with
      buf := t.buf, bitCursor := t.bitCursor, lastLevel := t.lastLevel, counter := t.counter,
      slotIndex := t.slotIndex, phase := t.phase } ∧
    ∀ a, a ≠ byteIndex s.bitCursor → t.buf.read a = s.buf.read a := by
  have hread := (edgeBit_buf h).2
  obtain ⟨-, rfl⟩ := edgeBit_next_iff.mp h
  refine ⟨rfl, fun a ha => ?_⟩
  rw [byteIndex_eq] at ha
  rw [hread, if_neg ha]

/-- A list of operations none of which clears or stores leaves every byte alone. -/
theorem exec_keeps_bytes {is : List Instr}
    (his : ∀ i ∈ is, i ≠ .read ∧ i ≠ .reset ∧ storesBit i = false) {i : Instr} (hi : i ∈ is) {s t : State}
    (h : exec i s = .next t) (a : Nat) : t.buf.read a = s.buf.read a := by
  obtain ⟨hread, hreset, hstore⟩ := his i hi
  rw [exec_keeps_buf hread hreset hstore h]

/-- Settles O40: the registers each operation of the start sequence writes; none writes the buffer. -/
theorem frameOfTheStartSequence : Obligations.FrameOfTheStartSequence := by
  intro s t
  refine ⟨?_, ?_, ?_, ?_, ?_, ?_, ?_, fun i hi => exec_keeps_bytes (by simp [storesBit]) hi⟩
  all_goals
    intro h
    cases h
    rfl

/-- Settles O41: the registers each operation of the sampler writes, and the one byte of a stored bit. -/
theorem frameOfTheSampler : Obligations.FrameOfTheSampler := by
  intro s t l
  refine ⟨?_, ?_, ?_, ?_, fun i hi => exec_keeps_bytes (by simp [storesBit]) hi, fun i hi h => ?_⟩
  case refine_5 =>
    fin_cases hi
    · exact edgeBit_frame (b := false) h
    · exact edgeBit_frame (b := true) h
  all_goals
    intro h
    cases h
    rfl

/-- Settles O42: the registers each operation that ends a read writes; none writes the buffer. -/
theorem frameOfTheValidator : Obligations.FrameOfTheValidator := by
  intro s t
  refine ⟨fun h => ?_, fun i hi h => ?_, fun i hi => exec_keeps_bytes (by simp [storesBit]) hi⟩
  · cases h
    rfl
  · fin_cases hi
    all_goals
      cases h
      rfl

/-- Settles O43: READ and RESET clear the five bytes, beyond which a data space in its canonical form holds
nothing, and ILLEGAL_PHASE writes two registers. -/
theorem frameOfReadAndReset : Obligations.FrameOfReadAndReset := by
  intro s t
  refine ⟨fun h => ?_, fun h => exec_keeps_own h, fun i hi hwf h a ha => ?_, fun h => ?_⟩
  · cases h
    exact ⟨rfl, rfl, rfl, rfl⟩
  · have hi : i = .read ∨ i = .reset := by simpa using hi
    rw [exec_clear_buf hi h, read_nil, read_outside hwf ha]
  · cases h
    exact ⟨rfl, fun _ => rfl⟩

/-! ### Who writes which register -/

/-- What each operation may change, register by register (R23 to R34): the contrapositive of its effect. -/
theorem exec_writes {i : Instr} {s u : State} (h : exec i s = .next u) :
    (u.phase ≠ s.phase → i ∈ [.reset, .read, .startModeOut, .startHigh, .startLow, .startRelease, .pollTimeout,
        .illegalPhase] ∨ endsRead i = true ∨ isEdge i = true) ∧
    (u.lastLevel ≠ s.lastLevel → isEdge i = true ∨ i ∈ [.read, .reset]) ∧
    (u.counter ≠ s.counter → isEdge i = true ∨ i ∈ [.read, .reset, .startRelease, .pollSame, .pollTimeout]) ∧
    (u.bitCursor ≠ s.bitCursor → storesBit i = true ∨
      i ∈ [.read, .reset, .edgeOverrun true, .edgeOverrun false]) ∧
    (u.timer ≠ s.timer →
      i ∈ [.read, .reset, .startHigh, .warmupWait, .startLow, .triggerWait, .startRelease]) ∧
    (u.pin ≠ s.pin → i ∈ [.read, .reset] ∨ endsRead i = true) ∧
    (u.lineOe ≠ s.lineOe → i ∈ [.reset, .startModeOut, .startRelease, .illegalPhase]) ∧
    (u.lineOut ≠ s.lineOut → i ∈ [.read, .reset, .startHigh, .startLow]) ∧
    (u.timeout ≠ s.timeout → i ∈ [.read, .reset, .pollTimeout]) ∧
    (u.overrun ≠ s.overrun → i ∈ [.read, .reset, .edgeOverrun true, .edgeOverrun false]) ∧
    (u.done ≠ s.done → i ∈ [.read, .reset] ∨ endsRead i = true) ∧
    (u.status ≠ s.status → i ∈ [.read, .reset] ∨ endsRead i = true) ∧
    (u.humidity ≠ s.humidity → i ∈ [.read, .reset, .validateOk]) ∧
    (u.temperature ≠ s.temperature → i ∈ [.read, .reset, .validateOk]) := by
  cases i
  case edgeBit0 | edgeBit1 =>
    obtain ⟨-, rfl⟩ := edgeBit_next_iff.mp h
    simp [isEdge, storesBit]
  all_goals
    cases h
    simp [isEdge, storesBit, endsRead]

/-- Settles O50: what each operation writes, and that an edge leaves phase SAMPLE only in slot 84. -/
theorem whoWritesTheOtherRegisters : Obligations.WhoWritesTheOtherRegisters := by
  intro s t h
  obtain ⟨u, hu, rfl⟩ := step_next_iff.mp h
  obtain ⟨hphase, hrest⟩ := exec_writes hu
  refine ⟨fun hne => ?_, hrest⟩
  rcases hphase hne with hi | hi | hi
  · exact .inl hi
  · exact .inr (.inl hi)
  · refine .inr (.inr ⟨hi, ?_⟩)
    by_contra h84
    obtain ⟨-, hp, -⟩ := (isEdge_operationAt_iff s).mp hi
    have ht := (step_edge h hi).2
    rw [if_neg h84] at ht
    exact hne (ht.trans hp.symm)

end Sys2Proof.Machine
end

section
/-! PROOFS. What the registers mean outside: the frame and its bits (20_memory.md section 2, 30_encoding.md R94), the
checksum (43_checksum_result.md R171), and the output ports and words (10_state.md R21, R35). -/

namespace Sys2Proof.Machine

/-! ### The frame -/

/-- Byte k of the frame is its bits 39 - 8k to 32 - 8k (R62). -/
theorem frame_byte (m : Memory) {k : Nat} (hk : k < 5) : (frame m).extractLsb' (32 - 8 * k) 8 = m.read k := by
  change @BitVec.extractLsb' (8 + 8 + 8 + 8 + 8) _ 8
    (m.read 0 ++ m.read 1 ++ m.read 2 ++ m.read 3 ++ m.read 4) = _
  interval_cases k
  all_goals simp (disch := decide) only [BitVec.extractLsb'_append_eq_of_le,
    BitVec.extractLsb'_append_eq_of_add_le, Nat.mul_zero, Nat.mul_one, Nat.reduceMul, Nat.reduceSub,
    BitVec.extractLsb'_eq_self]

/-- Bit i in order of arrival is bit 39 - i of the frame (R63). -/
theorem frame_getLsbD (m : Memory) {i : Nat} (hi : i < 40) :
    (frame m).getLsbD (39 - i) = (m.read (i / 8)).getLsbD (7 - i % 8) := by
  have hk : i / 8 < 5 := by omega
  have hbit : 39 - i = 32 - 8 * (i / 8) + (7 - i % 8) := by omega
  have hlt : 7 - i % 8 < 8 := by omega
  rw [← frame_byte m hk, BitVec.getLsbD_extractLsb', decide_eq_true hlt, Bool.true_and, hbit]

/-! ### Bits read as a number -/

/-- The low n bits of a number, the first most significant, are the number modulo 2^n. -/
theorem bitsValue_testBit (x n : Nat) :
    bitsValue ((List.range n).map fun j => x.testBit (n - 1 - j)) = x % 2 ^ n := by
  induction n with
  | zero => simp [bitsValue, Nat.mod_one]
  | succ n ih =>
    have hrest : (List.range n).map ((fun j => x.testBit (n + 1 - 1 - j)) ∘ Nat.succ)
        = (List.range n).map fun j => x.testBit (n - 1 - j) := by
      refine List.map_congr_left fun j _ => ?_
      have hj : n + 1 - 1 - Nat.succ j = n - 1 - j := by omega
      rw [Function.comp_apply, hj]
    rw [List.range_succ_eq_map, List.map_cons, List.map_map, hrest, bitsValue, ih, Nat.mod_pow_succ,
      ← Nat.toNat_testBit, List.length_map, List.length_range, Nat.add_sub_cancel, Nat.sub_zero, Nat.mul_comm,
      Nat.add_comm]

/-- The bits of a word, the first most significant, are its value. -/
theorem bitsValue_getLsbD {n : Nat} (v : BitVec n) :
    bitsValue ((List.range n).map fun j => v.getLsbD (n - 1 - j)) = v.toNat := by
  have h := bitsValue_testBit v.toNat n
  rwa [Nat.mod_eq_of_lt v.isLt] at h

/-! ### The captured bits (R63, R165) -/

/-- Where bit i stands while c bits are in: right-aligned in its byte. -/
def capturedBit (m : Memory) (c i : Nat) : Bool :=
  (m.read (i / 8)).getLsbD (min 8 (c - 8 * (i / 8)) - 1 - i % 8)

theorem capturedBits_eq_map (m : Memory) (c : Nat) :
    capturedBits m c = (List.range (min 40 c)).map (capturedBit m c) := rfl

/-- A bit of a byte that is complete stays where it is. -/
theorem capturedBit_of_complete (m : Memory) {c i : Nat} (h : 8 * (i / 8) + 8 ≤ c) :
    capturedBit m c i = (m.read (i / 8)).getLsbD (7 - i % 8) := by
  rw [capturedBit, show min 8 (c - 8 * (i / 8)) = 8 by omega]

/-- With 40 bits in, the captured bits are those of the frame. -/
theorem capturedBits_of_full (m : Memory) {c : Nat} (hc : 40 ≤ c) :
    capturedBits m c = (List.range 40).map fun i => (frame m).getLsbD (40 - 1 - i) := by
  rw [capturedBits_eq_map, Nat.min_eq_left hc]
  refine List.map_congr_left fun i hi => ?_
  rw [List.mem_range] at hi
  rw [capturedBit_of_complete m (by omega), frame_getLsbD m hi]

/-- A bit shifted in at the cursor moves the bits of the cursor's byte up by one and leaves the others. -/
theorem capturedBit_store (m : Memory) {c i : Nat} (hi : i < c) (b : Bool) :
    capturedBit (m.write (c / 8) (shiftIn (m.read (c / 8)) b)) (c + 1) i = capturedBit m c i := by
  unfold capturedBit
  rw [read_write]
  split
  case isTrue heq =>
    have hpos : min 8 (c + 1 - 8 * (i / 8)) - 1 - i % 8 = min 8 (c - 8 * (i / 8)) - 1 - i % 8 + 1 := by omega
    have hlt : min 8 (c - 8 * (i / 8)) - 1 - i % 8 + 1 < 8 := by omega
    rw [shiftIn_getLsbD, hpos, if_neg (Nat.succ_ne_zero _), decide_eq_true hlt, Bool.true_and, Nat.add_sub_cancel,
      heq]
  case isFalse hne =>
    have hpos : min 8 (c + 1 - 8 * (i / 8)) = min 8 (c - 8 * (i / 8)) := by omega
    rw [hpos]

/-- The bit shifted in is the one at the cursor. -/
theorem capturedBit_store_cursor (m : Memory) (c : Nat) (b : Bool) :
    capturedBit (m.write (c / 8) (shiftIn (m.read (c / 8)) b)) (c + 1) c = b := by
  have hpos : min 8 (c + 1 - 8 * (c / 8)) - 1 - c % 8 = 0 := by omega
  rw [capturedBit, read_write_same, hpos, shiftIn_getLsbD, if_pos rfl]

/-- A stored bit is appended to the captured ones. -/
theorem capturedBits_store (m : Memory) {c : Nat} (hc : c < 40) (b : Bool) :
    capturedBits (m.write (c / 8) (shiftIn (m.read (c / 8)) b)) (c + 1) = capturedBits m c ++ [b] := by
  rw [capturedBits_eq_map, capturedBits_eq_map, Nat.min_eq_right hc, Nat.min_eq_right (Nat.le_of_lt hc),
    List.range_succ, List.map_append, List.map_singleton, capturedBit_store_cursor]
  congr 1
  exact List.map_congr_left fun i hi => capturedBit_store m (List.mem_range.mp hi) b

theorem edgeBit_capturedBits {b l : Bool} {s t : State} (h : edgeBit b l s = .next t) :
    capturedBits t.buf t.bitCursor.toNat = capturedBits s.buf s.bitCursor.toNat ++ [b] := by
  obtain ⟨hlt, rfl⟩ := edgeBit_next_iff.mp h
  have hsucc : (s.bitCursor + 1).toNat = s.bitCursor.toNat + 1 := by bv_omega
  rw [endSlot_buf, endSlot_bitCursor, setByte_buf, byteIndex_eq, hsucc, capturedBits_store s.buf hlt b]

/-- Settles O25: both operations that store a bit append it. -/
theorem packingAppendsTheBit : Obligations.PackingAppendsTheBit :=
  fun _ _ _ _ => ⟨edgeBit_capturedBits, edgeBit_capturedBits⟩

/-- Settles O26: with 40 bits in, the captured bits are the frame's from bit 39 down. -/
theorem completeFrameIsTheBits : Obligations.CompleteFrameIsTheBits := by
  intro m c hc
  refine ⟨?_, ?_, fun k hk => (frame_byte m hk).symm⟩
  · rw [capturedBits_of_full m hc, List.length_map, List.length_range]
  · rw [capturedBits_of_full m hc, bitsValue_getLsbD]

/-! ### The checksum and the ports -/

/-- Settles O35: an 8-bit adder and the low bits of the exact sum agree, as both are the sum modulo 256. -/
theorem checksumArithmetic : Obligations.ChecksumArithmetic := by
  intro m
  have hsum : (checksum m).toNat = byteSum m % 256 := by
    simp [checksum, byteSum]
  refine ⟨hsum, BitVec.eq_of_toNat_eq ?_, ?_⟩
  · rw [hsum]
    simp [byteSum]
  · unfold byteSum
    have h0 := (m.read 0).isLt
    have h1 := (m.read 1).isLt
    have h2 := (m.read 2).isLt
    have h3 := (m.read 3).isLt
    omega

/-- The fields of STATUS, in the places of R35. -/
theorem statusWord_fields (s : State) :
    (statusWord s).getLsbD 0 = busy s ∧ (statusWord s).getLsbD 1 = s.done ∧
    (statusWord s).extractLsb' 2 2 = statusCode s.status ∧ (statusWord s).getLsbD 4 = s.timeout ∧
    (statusWord s).getLsbD 5 = s.overrun ∧ (statusWord s).extractLsb' 6 6 = s.bitCursor ∧
    (statusWord s).extractLsb' 12 7 = s.slotIndex := by
  have hword : statusWord s = (s.slotIndex ++ s.bitCursor ++ BitVec.ofBool s.overrun ++ BitVec.ofBool s.timeout
      ++ statusCode s.status ++ BitVec.ofBool s.done ++ BitVec.ofBool (busy s) :
      BitVec (7 + 6 + 1 + 1 + 2 + 1 + 1)) := rfl
  rw [hword]
  simp (disch := decide) only [BitVec.extractLsb'_append_eq_of_le, BitVec.extractLsb'_append_eq_of_add_le,
    BitVec.getLsbD_append]
  simp

/-- Settles O38: the ports and the words, register by register. -/
theorem portsShowTheRegisters : Obligations.PortsShowTheRegisters := by
  intro s
  obtain ⟨h0, h1, h2, h4, h5, h6, h12⟩ := statusWord_fields s
  refine ⟨?_, ?_, rfl, ?_, rfl, ?_, rfl, rfl, rfl, rfl, rfl, rfl, fun k => frame_byte s.buf, h0, h1, h2, h4, h5,
    h6, h12, ?_, ?_, fun k => frame_byte s.buf⟩
  · simp only [outputs]
    cases s.lineOe
    all_goals rfl
  · simp only [outputs]
    cases s.lineOut
    all_goals rfl
  · simp [outputs, busy]
  · simp only [outputs]
    cases s.status
    all_goals rfl
  · exact (BitVec.extractLsb'_append_eq_of_add_le (by decide)).trans BitVec.extractLsb'_eq_self
  · exact (BitVec.extractLsb'_append_eq_of_le (by decide)).trans BitVec.extractLsb'_eq_self

end Sys2Proof.Machine
end

section
/-! PROOFS. The end of a data slot (42_bit_assembler.md R162 to R164), and the end of a read (43_checksum_result.md
R174, R175): what selects each operation, its effect, and what the invariant adds. -/

namespace Sys2Proof.Machine

/-! ### A stored bit -/

/-- What selects an operation that stores the bit b. -/
theorem exists_operationAt_eq_edgeBit_iff (s : State) (b : Bool) :
    (∃ l, operationAt s = if b then .edgeBit1 l else .edgeBit0 l) ↔ s.inputs.rst = false ∧ s.phase = .sample ∧
      s.inputs.lineIn ≠ s.lastLevel ∧ 4 ≤ s.slotIndex.toNat ∧ s.slotIndex.toNat % 2 = 0 ∧
      s.bitCursor.toNat < 40 ∧ classify s.counter = b := by
  simp only [operationAt_eq_edgeBit_iff, exists_and_left, exists_eq', and_true, and_assoc]

/-- `l` of a stored bit says whether the slot is 84. -/
theorem slot_of_edgeBit {s : State} {b l : Bool} (hop : operationAt s = if b then .edgeBit1 l else .edgeBit0 l) :
    l = true ↔ s.slotIndex.toNat = 84 := by
  obtain ⟨-, -, -, -, -, -, rfl⟩ := (operationAt_eq_edgeBit_iff s b l).mp hop
  exact decide_eq_true_iff

/-- In a run a bit is stored before slot 84, and the byte it enters has its top bit free (R162 (b)). -/
theorem Inv.edgeBit_room {s : State} {b l : Bool} (h : Inv s)
    (hop : operationAt s = if b then .edgeBit1 l else .edgeBit0 l) :
    l = false ∧ (s.buf.read (s.bitCursor.toNat / 8)).getLsbD 7 = false := by
  obtain ⟨-, -, -, -, hlt, -, hlast⟩ := (operationAt_eq_edgeBit_iff s b l).mp hop
  refine ⟨?_, ?_⟩
  · rw [← hlast, decide_eq_false_iff_not]
    exact h.slot_ne_84 hlt
  · have hbyte := h.rightAligned (s.bitCursor.toNat / 8) (by omega)
    have hle : 2 ^ min 8 (s.bitCursor.toNat - 8 * (s.bitCursor.toNat / 8)) ≤ 2 ^ 7 :=
      Nat.pow_le_pow_right (by decide) (by omega)
    exact Nat.testBit_lt_two_pow (hbyte.trans_le hle)

/-- The effect of a stored bit while there is room (R93, R143). -/
theorem edgeBit_effect {s : State} (hlt : s.bitCursor.toNat < 40) (b l : Bool) :
    ∃ t, edgeBit b l s = .next t ∧
      (t.buf.read (s.bitCursor.toNat / 8)).toNat
        = 2 * (s.buf.read (s.bitCursor.toNat / 8)).toNat % 256 + b.toNat ∧
      (∀ a, a ≠ s.bitCursor.toNat / 8 → t.buf.read a = s.buf.read a) ∧
      t = { s with
        buf := t.buf
        bitCursor := s.bitCursor + 1
        lastLevel := s.inputs.lineIn
        counter := 0
        slotIndex := s.slotIndex + 1
        phase := if l then .validate else .sample } := by
  have hstore := edgeBit_of_lt hlt b l
  refine ⟨_, hstore, edgeBit_byte_toNat hstore, ?_, rfl⟩
  rw [← byteIndex_eq]
  exact (edgeBit_frame hstore).2

/-- Settles O20: the operation that stores the bit 0. -/
theorem edgeBit0Operation : Obligations.EdgeBit0Operation := by
  refine ⟨fun s => ?_, fun s l => slot_of_edgeBit (b := false), fun s l h => h.edgeBit_room (b := false),
    fun s l hlt => edgeBit_effect hlt false l⟩
  have hbit : classify s.counter = false ↔ s.counter.toNat ≤ 16 := by
    rw [← Bool.not_eq_true, classify_iff, Nat.not_lt]
  rw [← hbit]
  exact exists_operationAt_eq_edgeBit_iff s false

/-- Settles O21: the operation that stores the bit 1. -/
theorem edgeBit1Operation : Obligations.EdgeBit1Operation := by
  refine ⟨fun s => ?_, fun s l => slot_of_edgeBit (b := true), fun s l h => h.edgeBit_room (b := true),
    fun s l hlt => edgeBit_effect hlt true l⟩
  have hbit : classify s.counter = true ↔ 17 ≤ s.counter.toNat := classify_iff s.counter
  rw [← hbit]
  exact exists_operationAt_eq_edgeBit_iff s true

/-- Settles O22: what selects EDGE_OVERRUN, that in a run it is slot 84 with 40 bits in, and its effect. -/
theorem edgeOverrunOperation : Obligations.EdgeOverrunOperation := by
  refine ⟨fun s => ?_, fun s l hop => ?_, fun s l h hop => ?_, exec_edgeOverrun⟩
  · simp only [operationAt_eq_edgeOverrun_iff, exists_and_left, exists_eq', and_true, and_assoc]
  · obtain ⟨-, -, -, -, -, rfl⟩ := (operationAt_eq_edgeOverrun_iff s l).mp hop
    exact decide_eq_true_iff
  · obtain ⟨-, hp, -, hdata, hfull, rfl⟩ := (operationAt_eq_edgeOverrun_iff s l).mp hop
    obtain ⟨h84, h40⟩ := h.slot_eq_84 hp hdata.2 hfull
    exact ⟨decide_eq_true h84, h40⟩

/-! ### The end of a read -/

/-- The code of a short capture is IncompleteCapture in the distinct mode and ChecksumMismatch otherwise. -/
theorem shortCode_eq (e : ErrMode) :
    shortCode e = if e = .distinct then .incompleteCapture else .checksumMismatch := by
  cases e
  all_goals rfl

/-- Settles O32: what selects VALIDATE_SHORT, its effect, and that a short capture comes of a timeout. -/
theorem validateShortOperation : Obligations.ValidateShortOperation := by
  refine ⟨operationAt_eq_validateShort_iff, fun s => ?_, fun s h hop => ?_⟩
  · rw [exec_validateShort, shortCode_eq]
    rfl
  · obtain ⟨-, hp, hlt⟩ := (operationAt_eq_validateShort_iff s).mp hop
    rw [h.cursorOfSlot, bitsBefore_lt_iff] at hlt
    have hno : s.overrun ≠ true := fun ho => by
      have h85 := h.overrunSlot.mp ho
      omega
    exact ⟨(h.validating hp).resolve_right hno, hlt, h.fieldsZero_of_validate hp⟩

/-- The result on the ports after a short capture (R95, R174). -/
theorem result_finishRead_short (s : State) :
    result (finishRead (shortCode s.params.errMode) s) = some (.err (shortKind s.params.errMode)) := by
  rw [result, finishRead_status]
  cases s.params.errMode
  all_goals rfl

/-- Settles O34: the verdict of phase VALIDATE, and the result each operation leaves on the ports. -/
theorem resultOfARead : Obligations.ResultOfARead := by
  intro s hr hp
  have hop := operationAt_of_endsRead ((endsRead_operationAt_iff s).mpr ⟨hr, hp⟩)
  split_ifs at hop ⊢ with hlt hsum
  · have hu : exec (operationAt s) s = .next (finishRead (shortCode s.params.errMode) s) := by
      rw [hop, exec_validateShort]
    exact ⟨_, step_of_exec hu, result_finishRead_short s⟩
  · exact ⟨_, step_of_exec (by rw [hop, exec_validateOk]), rfl⟩
  · exact ⟨_, step_of_exec (by rw [hop, exec_validateBadsum]), rfl⟩

end Sys2Proof.Machine
end

section
/-! PROOFS. What a tick does not depend on: inputs that its phase does not look at (40_command_start_sequence.md
R129, 20_memory.md R61), an earlier read (10_state.md R40), and the registers that only report (R29, R32). -/

namespace Sys2Proof.Machine

/-! ### The inputs a phase does not look at -/

/-- The operation depends on the reset, in phase IDLE on the command, and in phase SAMPLE on the line. -/
theorem operationAt_withInputs_congr {s : State} {i j : TickInputs} (hr : i.rst = j.rst)
    (hidle : s.phase = .idle → i.start = j.start) (hsample : s.phase = .sample → i.lineIn = j.lineIn) :
    operationAt (s.withInputs i) = operationAt (s.withInputs j) := by
  rw [operationAt_eq_phaseOperation, operationAt_eq_phaseOperation, withInputs_inputs, withInputs_inputs, hr,
    withInputs_phase, withInputs_phase]
  congr 1
  cases hp : s.phase
  case idle => rw [phaseOperation, phaseOperation, withInputs_inputs, withInputs_inputs, hidle hp]
  case sample => simp [phaseOperation, hsample hp]
  all_goals rfl

/-- The effect depends on the pin's number in READ and on the line in an edge, and on no other input. -/
theorem exec_withInputs_congr {op : Instr} {s u : State} {i j : TickInputs}
    (hread : op = .read → i.pinIn = j.pinIn) (hedge : isEdge op = true → i.lineIn = j.lineIn)
    (h : exec op (s.withInputs i) = .next u) : exec op (s.withInputs j) = .next (u.withInputs j) := by
  cases op
  case edgeBit0 | edgeBit1 =>
    obtain ⟨hlt, rfl⟩ := edgeBit_next_iff.mp h
    refine edgeBit_next_iff.mpr ⟨hlt, ?_⟩
    simp [State.withInputs, endSlot, lineRead, State.inputs, State.inputAt, State.setByte, hedge rfl]
  case read =>
    cases h
    simp [State.withInputs, clearCapture, pinPort, State.inputs, State.inputAt, hread rfl]
  case edgeSkip | edgeOverrun =>
    cases h
    simp [State.withInputs, endSlot, lineRead, State.inputs, State.inputAt, hedge rfl]
  all_goals
    cases h
    rfl

/-- A tick is the same for two sets of inputs that agree where its phase looks: on the reset, in phase IDLE on the
command and the pin, and in phase SAMPLE on the line. -/
theorem step_withInputs_congr {s : State} {i j : TickInputs} (hr : i.rst = j.rst)
    (hidle : s.phase = .idle → i.start = j.start ∧ i.pinIn = j.pinIn)
    (hsample : s.phase = .sample → i.lineIn = j.lineIn) :
    step (s.withInputs i) = step (s.withInputs j) := by
  obtain ⟨u, hu⟩ := exec_operationAt (s.withInputs i)
  have hop := operationAt_withInputs_congr hr (fun hp => (hidle hp).1) hsample
  have hu' : exec (operationAt (s.withInputs j)) (s.withInputs j) = .next (u.withInputs j) := by
    rw [← hop]
    refine exec_withInputs_congr (fun h => ?_) (fun h => ?_) hu
    · obtain ⟨-, hp, -⟩ := (operationAt_eq_read_iff _).mp h
      exact (hidle hp).2
    · obtain ⟨-, hp, -⟩ := (isEdge_operationAt_iff _).mp h
      exact hsample hp
  rw [step_of_exec hu, step_of_exec hu', withInputs_nextTick]

/-- Settles O52: outside phase IDLE no operation looks at the command or the pin. -/
theorem startIsIgnoredWhileBusy : Obligations.StartIsIgnoredWhileBusy :=
  fun _ _ _ _ hp => step_withInputs_congr rfl (fun h => absurd h hp) fun _ => rfl

/-- Settles O53: outside phase SAMPLE no operation looks at the line, and in phase SAMPLE it is released. -/
theorem lineIsReadOnlyInSample : Obligations.LineIsReadOnlyInSample := by
  refine ⟨fun _ _ _ hp => step_withInputs_congr rfl (fun _ => ⟨rfl, rfl⟩) fun h => absurd h hp,
    fun s hInv hp => ?_⟩
  rw [lineDriven, hInv.lineOe_input (by rw [hp]; rfl)]

/-! ### The past -/

/-- READ from a released line: every register has its reset value but the pin and the phase (R40). -/
theorem exec_read_of_input {s : State} (hoe : s.lineOe = .input) : exec .read s = .next { State.reset with
    pin := pinPort s, phase := .sModeOut, params := s.params, script := s.script, tick := s.tick } := by
  simp [clearCapture, State.reset, hoe]

/-- Settles O54: what READ leaves is a function of the parameters and the inputs. -/
theorem readForgetsThePast : Obligations.ReadForgetsThePast := by
  intro s s' h h' hp hp' hparams hscript htick hr hstart
  have hinputs : s'.inputs = s.inputs := inputAt_congr hscript.symm htick.symm 0
  have hop : operationAt s = .read := (operationAt_eq_read_iff s).mpr ⟨hr, hp, hstart⟩
  have hop' : operationAt s' = .read :=
    (operationAt_eq_read_iff s').mpr ⟨hinputs ▸ hr, hp', hinputs ▸ hstart⟩
  have hread := exec_read_of_input (h.lineOe_input (by rw [hp]; rfl))
  have hread' := exec_read_of_input (h'.lineOe_input (by rw [hp']; rfl))
  refine ⟨_, step_of_exec (hop ▸ hread), ?_⟩
  rw [step_of_exec (hop' ▸ hread')]
  simp [pinPort, hinputs, hparams, hscript, htick]

/-! ### The registers that only report -/

/-- A state with other values in the registers that only report. -/
def State.withReport (p : Nat) (a b d : Bool) (c : Status) (h e : Byte) (s : State) : State :=
  { s with pin := p, timeout := a, overrun := b, done := d, status := c, humidity := h, temperature := e }

/-- Settles O55: no condition reads these registers, and no operation copies one into another register. -/
theorem pinAndFlagsDecideNothing : Obligations.PinAndFlagsDecideNothing := by
  intro s t p a b d c h e ht
  obtain ⟨u, hu, rfl⟩ := step_next_iff.mp ht
  have hop : operationAt (s.withReport p a b d c h e) = operationAt s := rfl
  obtain ⟨u', hu'⟩ := exec_operationAt (s.withReport p a b d c h e)
  refine ⟨u'.nextTick, step_of_exec hu', ?_⟩
  rw [hop] at hu'
  cases hi : operationAt s
  all_goals rw [hi] at hu hu'
  case edgeBit0 | edgeBit1 =>
    obtain ⟨-, rfl⟩ := edgeBit_next_iff.mp hu
    obtain ⟨-, rfl⟩ := edgeBit_next_iff.mp hu'
    rfl
  all_goals
    cases hu
    cases hu'
    rfl

end Sys2Proof.Machine
end

section
/-! PROOFS. Runs of several ticks: what a run keeps, the trace of the start sequence (40_command_start_sequence.md
section 3), and the end of one slot (41_edge_sampler.md section 2). -/

namespace Sys2Proof.Machine

/-! ### Runs -/

/-- A run of one tick more, taken apart at its first tick: no tick stops. -/
theorem run_succ_iff {n : Nat} {s t : State} : Host.Core.run core (n + 1) s = .next t ↔
    ∃ u, step s = .next u ∧ Host.Core.run core n u = .next t := by
  obtain ⟨u, hu⟩ := step_next s
  simp [run_succ hu, hu]

theorem run_one {s t : State} (h : step s = .next t) : Host.Core.run core 1 s = .next t := run_succ h 0

theorem run_trans {m n : Nat} {s t u : State} (hm : Host.Core.run core m s = .next t)
    (hn : Host.Core.run core n t = .next u) : Host.Core.run core (m + n) s = .next u :=
  (run_add hm n).trans hn

/-- A sequence of states each of which ticks to the next is a run. -/
theorem run_of_steps {f : Nat → State} {n : Nat} (h : ∀ k < n, step (f k) = .next (f (k + 1))) :
    Host.Core.run core n (f 0) = .next (f n) := by
  induction n with
  | zero => rfl
  | succ n ih =>
    exact run_trans (ih fun k hk => h k (Nat.lt_succ_of_lt hk)) (run_one (h n n.lt_succ_self))

/-- The invariant holds after any number of ticks. -/
theorem Inv.after_run {n : Nat} {s t : State} (h : Inv s) (ht : Host.Core.run core n s = .next t) : Inv t := by
  induction n generalizing s with
  | zero =>
    cases ht
    exact h
  | succ n ih =>
    obtain ⟨u, hu, ht⟩ := run_succ_iff.mp ht
    exact ih (h.after_step hu) ht

/-- A run keeps the parameters and uses up its inputs. -/
theorem run_own {n : Nat} {s t : State} (h : Host.Core.run core n s = .next t) :
    t.params = s.params ∧ ∀ j, t.inputAt j = s.inputAt (n + j) := by
  induction n generalizing s with
  | zero =>
    cases h
    exact ⟨rfl, fun j => by rw [Nat.zero_add]⟩
  | succ n ih =>
    obtain ⟨u, hu, ht⟩ := run_succ_iff.mp h
    obtain ⟨hparams, hinputs⟩ := ih ht
    refine ⟨hparams.trans (step_params hu), fun j => ?_⟩
    rw [hinputs, step_inputAt hu, Nat.add_right_comm]

/-! ### Inputs used up -/

/-- The same registers n ticks later. -/
def State.after (n : Nat) (s : State) : State := { s with script := s.script.drop n, tick := s.tick + n }

theorem after_inputAt (n j : Nat) (s : State) : (s.after n).inputAt j = s.inputAt (n + j) := by
  simp [State.after, State.inputAt, Nat.add_assoc]

theorem after_inputs (n : Nat) (s : State) : (s.after n).inputs = s.inputAt n := after_inputAt n 0 s

theorem after_nextTick (n : Nat) (s : State) : (s.after n).nextTick = s.after (n + 1) := by
  simp [State.after, State.nextTick, Nat.add_assoc]

theorem after_zero (s : State) : s.after 0 = s := rfl

/-! ### The start sequence -/

/-- The registers in a phase of the start sequence: those READ leaves, with the line, the timer and the phase. -/
def startState (s : State) (p : Phase) (oe : PinMode) (out : Level) (timer : BitVec 16) : State :=
  { State.reset with
    phase := p, lineOe := oe, lineOut := out, timer := timer, pin := pinPort s, params := s.params,
    script := s.script, tick := s.tick }

/-- The state after the first n ticks of a read, n at least 1 (R128). -/
def startTrace (s : State) (n : Nat) : State := State.after n <|
  if n = 1 then startState s .sModeOut .input .high 0
  else if n = 2 then startState s .sHigh .output .high 0
  else if n ≤ s.params.nWarmup + 2 then startState s .sWarmup .output .high (BitVec.ofNat 16 (n - 3))
  else if n ≤ s.params.nWarmup + s.params.nTrigger + 2 then
    startState s .sTrigger .output .low (BitVec.ofNat 16 (n - (s.params.nWarmup + 3)))
  else startState s .sample .input .low 0

theorem startTrace_one (s : State) : startTrace s 1 = (startState s .sModeOut .input .high 0).after 1 := rfl

theorem startTrace_two (s : State) : startTrace s 2 = (startState s .sHigh .output .high 0).after 2 := rfl

theorem startTrace_warmup (s : State) {k : Nat} (hk : k < s.params.nWarmup) :
    startTrace s (k + 3) = (startState s .sWarmup .output .high (BitVec.ofNat 16 k)).after (k + 3) := by
  unfold startTrace
  rw [if_neg (by omega), if_neg (by omega), if_pos (by omega), Nat.add_sub_cancel]

theorem startTrace_trigger (s : State) {k : Nat} (hk : k < s.params.nTrigger) :
    startTrace s (k + (s.params.nWarmup + 3))
      = (startState s .sTrigger .output .low (BitVec.ofNat 16 k)).after (k + (s.params.nWarmup + 3)) := by
  unfold startTrace
  rw [if_neg (by omega), if_neg (by omega), if_neg (by omega), if_pos (by omega), Nat.add_sub_cancel]

theorem startTrace_sample (s : State) : startTrace s (s.params.nWarmup + s.params.nTrigger + 3)
    = (startState s .sample .input .low 0).after (s.params.nWarmup + s.params.nTrigger + 3) := by
  have hw : 0 < s.params.nWarmup := Nat.succ_pos _
  unfold startTrace
  rw [if_neg (by omega), if_neg (by omega), if_neg (by omega), if_neg (by omega)]

/-- The operation of a tick, on the registers n ticks later. -/
theorem step_after {x y : State} {n : Nat} {i : Instr} (hop : operationAt (x.after n) = i)
    (hexec : exec i (x.after n) = .next (y.after n)) : step (x.after n) = .next (y.after (n + 1)) := by
  rw [← after_nextTick]
  exact step_of_exec (hop ▸ hexec)

/-- The first tick of a read. -/
theorem step_read {s : State} (h : Inv s) (hp : s.phase = .idle) (hstart : s.inputs.start = true)
    (hr : (s.inputAt 0).rst = false) : step s = .next (startTrace s 1) := by
  have hop : operationAt s = .read := (operationAt_eq_read_iff s).mpr ⟨hr, hp, hstart⟩
  exact step_after (n := 0) hop (exec_read_of_input (h.lineOe_input (by rw [hp]; rfl)))

/-- A count of a hold fits in the 16 bits of the timer. -/
theorem toNat_ofNat_of_le {k : Nat} {last : BitVec 16} (hk : k ≤ last.toNat) :
    (BitVec.ofNat 16 k).toNat = k := by
  rw [BitVec.toNat_ofNat, Nat.mod_eq_of_lt (hk.trans_lt last.isLt)]

theorem startState_rst {s : State} {n : Nat} (hr : (s.inputAt n).rst = false) (p : Phase) (oe : PinMode)
    (out : Level) (timer : BitVec 16) : ((startState s p oe out timer).after n).inputs.rst = false := by
  rw [after_inputs]
  exact hr

/-- A tick of the warm-up counts, and at its last value goes on to the trigger (R124, R125). -/
theorem step_startTrace_warmup {s : State} {k : Nat} (hk : k < s.params.nWarmup)
    (hr : (s.inputAt (k + 3)).rst = false) : step (startTrace s (k + 3)) = .next (startTrace s (k + 3 + 1)) := by
  have hrst := startState_rst hr .sWarmup .output .high (BitVec.ofNat 16 k)
  have htimer := toNat_ofNat_of_le (last := s.params.warmupLast) (Nat.le_of_lt_succ hk)
  rw [startTrace_warmup s hk]
  by_cases hlast : k = s.params.nWarmup - 1
  · have hnext : k + 3 + 1 = 0 + (s.params.nWarmup + 3) := by omega
    rw [hnext, startTrace_trigger s (Nat.succ_pos _), ← hnext]
    exact step_after ((operationAt_eq_startLow_iff _).mpr ⟨hrst, rfl, htimer.trans hlast⟩) rfl
  · have hnext : k + 3 + 1 = k + 1 + 3 := by omega
    rw [hnext, startTrace_warmup s (by omega), ← hnext, BitVec.ofNat_add]
    exact step_after ((operationAt_eq_warmupWait_iff _).mpr ⟨hrst, rfl, htimer.trans_ne hlast⟩) rfl

/-- A tick of the trigger counts, and at its last value releases the line (R126, R127). -/
theorem step_startTrace_trigger {s : State} {k : Nat} (hk : k < s.params.nTrigger)
    (hr : (s.inputAt (k + (s.params.nWarmup + 3))).rst = false) :
    step (startTrace s (k + (s.params.nWarmup + 3)))
      = .next (startTrace s (k + (s.params.nWarmup + 3) + 1)) := by
  have hrst := startState_rst hr .sTrigger .output .low (BitVec.ofNat 16 k)
  have htimer := toNat_ofNat_of_le (last := s.params.triggerLast) (Nat.le_of_lt_succ hk)
  rw [startTrace_trigger s hk]
  by_cases hlast : k = s.params.nTrigger - 1
  · have hnext : k + (s.params.nWarmup + 3) + 1 = s.params.nWarmup + s.params.nTrigger + 3 := by omega
    rw [hnext, startTrace_sample, ← hnext]
    exact step_after ((operationAt_eq_startRelease_iff _).mpr ⟨hrst, rfl, htimer.trans hlast⟩) rfl
  · have hnext : k + (s.params.nWarmup + 3) + 1 = k + 1 + (s.params.nWarmup + 3) := by omega
    rw [hnext, startTrace_trigger s (by omega), ← hnext, BitVec.ofNat_add]
    exact step_after ((operationAt_eq_triggerWait_iff _).mpr ⟨hrst, rfl, htimer.trans_ne hlast⟩) rfl

/-- Every later tick of the start sequence leads one state on in the trace (R122 to R128). -/
theorem step_startTrace {s : State} {n : Nat} (h0 : 0 < n)
    (hn : n < s.params.nWarmup + s.params.nTrigger + 3) (hr : (s.inputAt n).rst = false) :
    step (startTrace s n) = .next (startTrace s (n + 1)) := by
  by_cases h1 : n = 1
  · subst h1
    rw [startTrace_one, startTrace_two]
    exact step_after ((operationAt_eq_startModeOut_iff _).mpr ⟨startState_rst hr _ _ _ _, rfl⟩) rfl
  by_cases h2 : n = 2
  · subst h2
    rw [startTrace_two, startTrace_warmup s (k := 0) (Nat.succ_pos _)]
    exact step_after ((operationAt_eq_startHigh_iff _).mpr ⟨startState_rst hr _ _ _ _, rfl⟩) rfl
  by_cases hwarm : n < s.params.nWarmup + 3
  · obtain ⟨k, rfl⟩ : ∃ k, n = k + 3 := ⟨n - 3, by omega⟩
    exact step_startTrace_warmup (by omega) hr
  · obtain ⟨k, rfl⟩ : ∃ k, n = k + (s.params.nWarmup + 3) := ⟨n - (s.params.nWarmup + 3), by omega⟩
    exact step_startTrace_trigger (by omega) hr

theorem startTrace_pin (s : State) (n : Nat) : (startTrace s n).pin = pinPort s := by
  unfold startTrace
  split_ifs
  all_goals rfl

/-- The run of the start sequence: n ticks lead to the n-th state of the trace. -/
theorem run_startTrace {s : State} (h : Inv s) (hp : s.phase = .idle) (hstart : s.inputs.start = true)
    (hr : ∀ j < s.params.nWarmup + s.params.nTrigger + 3, (s.inputAt j).rst = false) {n : Nat} (h0 : 0 < n)
    (hn : n ≤ s.params.nWarmup + s.params.nTrigger + 3) :
    Host.Core.run core n s = .next (startTrace s n) := by
  obtain ⟨m, rfl⟩ : ∃ m, n = m + 1 := ⟨n - 1, by omega⟩
  rw [run_succ (step_read h hp hstart (hr 0 (by omega)))]
  exact run_of_steps (f := fun k => startTrace s (k + 1)) fun k hk =>
    step_startTrace k.succ_pos (by omega) (hr (k + 1) (by omega))

/-- Settles O16: the run is the trace, read off case by case. -/
theorem startSequenceTrace : Obligations.StartSequenceTrace := by
  intro s h hp hstart hr n h0 hn
  refine ⟨_, run_startTrace h hp hstart hr h0 hn, startTrace_pin s n, ?_⟩
  split_ifs with h1 h2 hwarm htrig
  · subst h1
    exact ⟨rfl, rfl⟩
  · subst h2
    exact ⟨rfl, rfl⟩
  · obtain ⟨k, rfl⟩ : ∃ k, n = k + 3 := ⟨n - 3, by omega⟩
    have hk : k < s.params.nWarmup := by omega
    rw [startTrace_warmup s hk, Nat.add_sub_cancel]
    exact ⟨rfl, toNat_ofNat_of_le (last := s.params.warmupLast) (Nat.le_of_lt_succ hk), rfl⟩
  · obtain ⟨k, rfl⟩ : ∃ k, n = k + (s.params.nWarmup + 3) := ⟨n - (s.params.nWarmup + 3), by omega⟩
    have hk : k < s.params.nTrigger := by omega
    rw [startTrace_trigger s hk, Nat.add_sub_cancel]
    exact ⟨rfl, toNat_ofNat_of_le (last := s.params.triggerLast) (Nat.le_of_lt_succ hk), rfl⟩
  · obtain rfl : n = s.params.nWarmup + s.params.nTrigger + 3 := by omega
    rw [startTrace_sample]
    exact ⟨rfl, rfl, rfl, rfl, rfl, rfl⟩

end Sys2Proof.Machine
end

section
/-! PROOFS. The slot loop (41_edge_sampler.md section 2): what ends a slot and with what count, that the loop makes
progress, and that every read ends (43_checksum_result.md R177). -/

namespace Sys2Proof.Machine

/-! ### Equal samples -/

/-- The state after n samples equal to `last_level`. -/
def State.counted (n : Nat) (s : State) : State := { s.after n with counter := BitVec.ofNat 8 n }

theorem counted_inputs (n : Nat) (s : State) : (s.counted n).inputs = s.inputAt n := after_inputs n s

/-- An equal sample below the ceiling adds one to the count (R141). -/
theorem step_counted {s : State} {n : Nat} (hp : s.phase = .sample) (hn : n < 254)
    (hline : (s.inputAt n).lineIn = s.lastLevel) (hr : (s.inputAt n).rst = false) :
    step (s.counted n) = .next (s.counted (n + 1)) := by
  have hcount : (BitVec.ofNat 8 n).toNat ≠ 254 := by
    rw [BitVec.toNat_ofNat]
    omega
  have hop : operationAt (s.counted n) = .pollSame := (operationAt_eq_pollSame_iff _).mpr
    ⟨counted_inputs n s ▸ hr, hp, counted_inputs n s ▸ hline, hcount⟩
  have hu : exec (operationAt (s.counted n)) (s.counted n)
      = .next { s.after n with counter := BitVec.ofNat 8 (n + 1) } := by
    rw [hop, BitVec.ofNat_add]
    rfl
  rw [step_of_exec hu, State.counted, ← after_nextTick]
  rfl

/-- A slot that begins with the counter at 0 counts its equal samples, up to 254. -/
theorem run_counted {s : State} {n : Nat} (hp : s.phase = .sample) (hc : s.counter = 0) (hn : n ≤ 254)
    (hline : ∀ j < n, (s.inputAt j).lineIn = s.lastLevel) (hr : ∀ j < n, (s.inputAt j).rst = false) :
    Host.Core.run core n s = .next (s.counted n) := by
  have hstart : s.counted 0 = s := by
    rw [State.counted, after_zero, ← BitVec.ofNat_eq_ofNat, ← hc]
  have hrun := run_of_steps (f := fun k => s.counted k) fun k hk =>
    step_counted hp (Nat.lt_of_lt_of_le hk hn) (hline k hk) (hr k hk)
  rwa [hstart] at hrun

/-- The 255th equal sample is the timeout (R142). -/
theorem step_counted_timeout {s : State} (hp : s.phase = .sample)
    (hline : (s.inputAt 254).lineIn = s.lastLevel) (hr : (s.inputAt 254).rst = false) :
    step (s.counted 254) = .next { s.after 255 with counter := 255, timeout := true, phase := .validate } := by
  have hop : operationAt (s.counted 254) = .pollTimeout := (operationAt_eq_pollTimeout_iff _).mpr
    ⟨counted_inputs 254 s ▸ hr, hp, counted_inputs 254 s ▸ hline, rfl⟩
  rw [step_of_exec (hop ▸ exec_pollTimeout _), ← after_nextTick]
  rfl

/-- Settles O28: 254 equal samples are counted, and the next one is the timeout. -/
theorem slotTimesOutAtTheCeiling : Obligations.SlotTimesOutAtTheCeiling := by
  intro s hp hc hin
  have hcount := run_counted (n := 254) hp hc le_rfl (fun j hj => (hin j (by omega)).1)
    fun j hj => (hin j (by omega)).2
  obtain ⟨hline, hr⟩ := hin 254 (by decide)
  exact run_trans hcount (run_one (step_counted_timeout hp hline hr))

/-! ### The edge -/

/-- What every edge does besides the bit (R143). -/
theorem exec_edge_registers {i : Instr} {s u : State} (hi : isEdge i = true) (h : exec i s = .next u) :
    u.counter = 0 ∧ u.lastLevel = s.inputs.lineIn ∧ u.timeout = s.timeout := by
  cases i
  case edgeBit0 | edgeBit1 =>
    obtain ⟨-, rfl⟩ := edgeBit_next_iff.mp h
    exact ⟨rfl, rfl, rfl⟩
  case edgeSkip | edgeOverrun =>
    cases h
    exact ⟨rfl, rfl, rfl⟩
  all_goals simp [isEdge] at hi

/-- The bit that an edge in a run adds: the one of the count, in a data slot other than 84, and else none (R91,
R166). -/
def edgeBits (s : State) : List Bool :=
  if 4 ≤ s.slotIndex.toNat ∧ s.slotIndex.toNat % 2 = 0 ∧ s.slotIndex.toNat ≠ 84
  then [classify s.counter] else []

/-- In a run a bit is stored in a data slot other than 84, and it is the one of the count. -/
theorem Inv.capturedBits_edgeBit {s u : State} {b l : Bool} (h : Inv s)
    (hop : operationAt s = if b then .edgeBit1 l else .edgeBit0 l) (hu : edgeBit b l s = .next u) :
    capturedBits u.buf u.bitCursor.toNat = capturedBits s.buf s.bitCursor.toNat ++ edgeBits s := by
  obtain ⟨-, -, -, ⟨h4, heven⟩, hlt, hbit, -⟩ := (operationAt_eq_edgeBit_iff s b l).mp hop
  rw [edgeBit_capturedBits hu, edgeBits, if_pos ⟨h4, heven, h.slot_ne_84 hlt⟩, hbit]

/-- Every edge in a run adds the bits of `edgeBits`. -/
theorem Inv.capturedBits_edge {s u : State} (h : Inv s) (hi : isEdge (operationAt s) = true)
    (hu : exec (operationAt s) s = .next u) :
    capturedBits u.buf u.bitCursor.toNat = capturedBits s.buf s.bitCursor.toNat ++ edgeBits s := by
  cases hop : operationAt s
  all_goals rw [hop] at hu hi
  case edgeBit0 l => exact h.capturedBits_edgeBit (b := false) hop hu
  case edgeBit1 l => exact h.capturedBits_edgeBit (b := true) hop hu
  case edgeSkip l =>
    obtain ⟨-, -, -, hslot, -⟩ := (operationAt_eq_edgeSkip_iff s l).mp hop
    cases hu
    rw [edgeBits, if_neg fun hdata => hslot ⟨hdata.1, hdata.2.1⟩, List.append_nil]
    rfl
  case edgeOverrun l =>
    obtain ⟨-, hp, -, hdata, hfull, -⟩ := (operationAt_eq_edgeOverrun_iff s l).mp hop
    obtain ⟨h84, h40⟩ := h.slot_eq_84 hp hdata.2 hfull
    have hsucc : 40 ≤ (s.bitCursor + 1).toNat := by bv_omega
    cases hu
    rw [edgeBits, if_neg fun hdata => hdata.2.2 h84, List.append_nil, endSlot_buf, endSlot_bitCursor,
      capturedBits_of_full _ hsucc, capturedBits_of_full _ hfull]
  all_goals simp [isEdge] at hi

/-- Settles O27: the equal samples are counted, and the edge ends the slot with that count. -/
theorem slotEndsWithItsCount : Obligations.SlotEndsWithItsCount := by
  intro s c h hp hc hle hsame hedge hr
  have hrun := run_counted hp hc hle hsame fun j hj => hr j (Nat.le_of_lt hj)
  have hInv : Inv (s.counted c) := h.after_run hrun
  have hi : isEdge (operationAt (s.counted c)) = true := by
    rw [isEdge_operationAt_iff, counted_inputs]
    exact ⟨hr c le_rfl, hp, hedge⟩
  obtain ⟨u, hu⟩ := exec_operationAt (s.counted c)
  have hstep := step_of_exec hu
  obtain ⟨hslot, hphase⟩ := step_edge hstep hi
  obtain ⟨hcounter, hlevel, htimeout⟩ := exec_edge_registers hi hu
  obtain ⟨-, hscript, htick⟩ := exec_keeps_own hu
  have hbits := hInv.capturedBits_edge hi hu
  have hbit : classify (s.counted c).counter = decide (16 < c) := by
    rw [Bool.eq_iff_iff, classify_iff, decide_eq_true_iff]
    change 16 < (BitVec.ofNat 8 c).toNat ↔ _
    rw [BitVec.toNat_ofNat, Nat.mod_eq_of_lt (by omega)]
  have hnext : (s.slotIndex + 1).toNat = s.slotIndex.toNat + 1 := by
    have := (h.sampling hp).1
    bv_omega
  rw [edgeBits, hbit] at hbits
  refine ⟨u.nextTick, run_trans hrun (run_one hstep), ?_, hcounter, ?_, ?_, hphase, hbits, ?_, ?_⟩
  · rw [hslot]
    exact hnext
  · rw [nextTick_lastLevel, hlevel, counted_inputs]
    exact hedge
  · exact htimeout.trans (h.sampling hp).2
  · rw [nextTick_script, hscript]
    exact List.tail_drop
  · rw [nextTick_tick, htick]
    exact Nat.add_assoc _ _ _

/-! ### Progress -/

theorem phase_of_operationAt {s : State} {i : Instr} {p : Phase} (hi : instrPhase i = some p)
    (hop : operationAt s = i) : s.phase = p := ((operationAt_eq_iff hi s).mp hop).2.1

/-- A tick of phase SAMPLE resets, counts, times out, or ends the slot (R140). -/
theorem step_sample {s t : State} (h : Inv s) (hp : s.phase = .sample) (ht : step s = .next t) :
    t.phase = .idle ∨ t.phase = .validate ∨
    (t.phase = .sample ∧ t.slotIndex = s.slotIndex ∧ t.counter.toNat = s.counter.toNat + 1) ∨
    (t.phase = .sample ∧ t.slotIndex.toNat = s.slotIndex.toNat + 1 ∧ t.counter.toNat = 0) := by
  by_cases hi : isEdge (operationAt s) = true
  · obtain ⟨hslot, hphase⟩ := step_edge ht hi
    obtain ⟨u, hu, rfl⟩ := step_next_iff.mp ht
    obtain ⟨hcounter, -, -⟩ := exec_edge_registers hi hu
    have hle := (h.sampling hp).1
    split_ifs at hphase with h84
    · exact .inr (.inl hphase)
    · refine .inr (.inr (.inr ⟨hphase, ?_, ?_⟩))
      · rw [hslot]
        bv_omega
      · rw [nextTick_counter, hcounter]
        rfl
  · obtain ⟨u, hu, rfl⟩ := step_next_iff.mp ht
    cases hop : operationAt s
    all_goals rw [hop] at hu hi
    case edgeSkip | edgeBit0 | edgeBit1 | edgeOverrun => exact absurd rfl hi
    case reset =>
      cases hu
      exact .inl rfl
    case pollTimeout =>
      cases hu
      exact .inr (.inl rfl)
    case pollSame =>
      cases hu
      have hc := h.counter_le_of_sample hp
      refine .inr (.inr (.inl ⟨hp, rfl, ?_⟩))
      simp only [nextTick_counter]
      bv_omega
    all_goals exact absurd (phase_of_operationAt rfl hop) (by simp [hp])

/-- Settles O29: a count takes one from the measure, and a new slot takes 255 and gives back the count. -/
theorem samplerMakesProgress : Obligations.SamplerMakesProgress := by
  intro s t h hp ht
  have hslot := (h.sampling hp).1
  have hcount := h.counter_le_of_sample hp
  rcases step_sample h hp ht with hphase | hphase | ⟨-, hs, hc⟩ | ⟨-, hs, hc⟩
  · exact .inl (by simp [hphase])
  · exact .inl (by simp [hphase])
  · right
    rw [hs, hc]
    omega
  · right
    rw [hs, hc]
    omega

/-! ### Every read ends -/

/-- A bound on the ticks a read still takes (R177). -/
def ticksLeft (s : State) : Nat :=
  match s.phase with
  | .idle => 0
  | .sModeOut => s.params.nWarmup + s.params.nTrigger + 21678
  | .sHigh => s.params.nWarmup + s.params.nTrigger + 21677
  | .sWarmup => s.params.nWarmup - s.timer.toNat + s.params.nTrigger + 21676
  | .sTrigger => s.params.nTrigger - s.timer.toNat + 21676
  | .sample => 255 * (85 - s.slotIndex.toNat) - s.counter.toNat + 1
  | .validate => 1
  | .illegal => 0

theorem ticksLeft_le_readTicks (s : State) : ticksLeft s ≤ readTicks s.params := by
  unfold ticksLeft readTicks
  split
  all_goals omega

theorem ticksLeft_of_idle {t : State} (h : t.phase = .idle) : ticksLeft t = 0 := by
  rw [ticksLeft, h]

theorem Inv.ticksLeft_pos {s : State} (h : Inv s) (hp : s.phase ≠ .idle) : 0 < ticksLeft s := by
  have hlegal := h.phaseLegal
  unfold ticksLeft
  split
  case h_1 hidle => exact absurd hidle hp
  case h_8 hillegal => exact absurd hillegal hlegal
  all_goals omega

/-- A tick of the start sequence takes one from the bound, and so does its end (R122 to R127). -/
theorem Inv.ticksLeft_lt_of_start {s u : State} (h : Inv s) (hdrive : s.phase = .sModeOut ∨ drivesLine s.phase = true)
    (hr : s.inputs.rst = false) (hu : exec (operationAt s) s = .next u) : ticksLeft u < ticksLeft s := by
  cases hp : s.phase
  all_goals rw [operationAt_of_phase hr hp, phaseOperation] at hu
  case sModeOut | sHigh =>
    cases hu
    simp [ticksLeft, hp, Params.nWarmup]
  case sWarmup =>
    have hle := h.timerWarmup hp
    split_ifs at hu with hlast
    all_goals cases hu
    · simp [ticksLeft, hp, hlast, Params.nWarmup]
    · have hlt : s.timer.toNat < s.params.warmupLast.toNat := lt_of_le_of_ne hle hlast
      have hsucc := timer_add_one hlt (BitVec.isLt _)
      simp only [ticksLeft, hp, hsucc, Params.nWarmup]
      omega
  case sTrigger =>
    obtain ⟨hslot, -⟩ := h.starting (.inr (.inr (.inr hp)))
    have hle := h.timerTrigger hp
    split_ifs at hu with hlast
    all_goals cases hu
    · simp [ticksLeft, hp, hlast, hslot, Params.nTrigger]
    · have hlt : s.timer.toNat < s.params.triggerLast.toNat := lt_of_le_of_ne hle hlast
      have hsucc := timer_add_one hlt (BitVec.isLt _)
      simp only [ticksLeft, hp, hsucc, Params.nTrigger]
      omega
  all_goals simp [hp, drivesLine] at hdrive

/-- A tick of phase SAMPLE takes from the bound (R145). -/
theorem Inv.ticksLeft_lt_of_sample {s t : State} (h : Inv s) (hp : s.phase = .sample) (ht : step s = .next t) :
    ticksLeft t < ticksLeft s := by
  have hslot := (h.sampling hp).1
  have hcount := h.counter_le_of_sample hp
  have hs : ticksLeft s = 255 * (85 - s.slotIndex.toNat) - s.counter.toNat + 1 := by rw [ticksLeft, hp]
  rw [hs]
  rcases step_sample h hp ht with hpt | hpt | ⟨hpt, hst, hct⟩ | ⟨hpt, hst, hct⟩
  · rw [ticksLeft_of_idle hpt]
    omega
  · simp only [ticksLeft, hpt]
    omega
  · simp only [ticksLeft, hpt, hst, hct]
    omega
  · simp only [ticksLeft, hpt, hst, hct]
    omega

/-- Outside phase IDLE every tick takes from the bound, whatever the inputs are. -/
theorem Inv.ticksLeft_lt {s t : State} (h : Inv s) (hp : s.phase ≠ .idle) (ht : step s = .next t) :
    ticksLeft t < ticksLeft s := by
  have hpos := h.ticksLeft_pos hp
  obtain ⟨u, hu, rfl⟩ := step_next_iff.mp ht
  cases hr : s.inputs.rst
  case true =>
    rw [(operationAt_eq_reset_iff s).mpr hr] at hu
    cases hu
    exact hpos
  case false =>
    cases hphase : s.phase
    case idle => exact absurd hphase hp
    case illegal => exact absurd hphase h.phaseLegal
    case sample => exact h.ticksLeft_lt_of_sample hphase ht
    case validate =>
      obtain ⟨v, hv, hidle, -⟩ := exec_of_endsRead ((endsRead_operationAt_iff s).mpr ⟨hr, hphase⟩) s
      cases hu.symm.trans hv
      exact (ticksLeft_of_idle hidle).trans_lt hpos
    all_goals exact h.ticksLeft_lt_of_start (u := u) (by simp [hphase, drivesLine]) hr hu

theorem Inv.exists_run_idle {s : State} (h : Inv s) :
    ∃ n t, n ≤ ticksLeft s ∧ Host.Core.run core n s = .next t ∧ t.phase = .idle := by
  induction hm : ticksLeft s using Nat.strong_induction_on generalizing s with
  | _ m ih =>
    by_cases hp : s.phase = .idle
    · exact ⟨0, s, Nat.zero_le _, rfl, hp⟩
    · obtain ⟨u, hu⟩ := step_next s
      have hlt := h.ticksLeft_lt hp hu
      obtain ⟨n, t, hn, hrun, hidle⟩ := ih _ (hm ▸ hlt) (h.after_step hu) rfl
      exact ⟨n + 1, t, by omega, (run_succ hu n).trans hrun, hidle⟩

/-- Settles O36: the bound is at most the ticks of a read. -/
theorem everyReadEnds : Obligations.EveryReadEnds := by
  intro s h
  obtain ⟨n, t, hn, hrun, hidle⟩ := h.exists_run_idle
  exact ⟨n, t, hn.trans (ticksLeft_le_readTicks s), hrun, hidle⟩

end Sys2Proof.Machine
end

section
/-! PROOFS. A read as a function of its samples (43_checksum_result.md R178): where each slot begins in the sample
stream, what the sampler holds there, and how the read ends. -/

namespace Sys2Proof.Machine

/-! ### Runs of the sample stream (R148) -/

theorem runLength_le (σ : Nat → Level) (l : Level) (q cap : Nat) : runLength σ l q cap ≤ cap := by
  induction cap generalizing q with
  | zero => exact le_rfl
  | succ cap ih =>
    unfold runLength
    split
    · exact Nat.succ_le_succ (ih _)
    · exact Nat.zero_le _

/-- Inside a run every sample has its level. -/
theorem eq_of_lt_runLength {σ : Nat → Level} {l : Level} {q cap j : Nat} (h : j < runLength σ l q cap) :
    σ (q + j) = l := by
  induction cap generalizing q j with
  | zero => exact absurd h (Nat.not_lt_zero _)
  | succ cap ih =>
    unfold runLength at h
    split at h
    case isTrue hq =>
      cases j with
      | zero => exact hq
      | succ j =>
        rw [show q + (j + 1) = q + 1 + j by omega]
        exact ih (Nat.lt_of_succ_lt_succ h)
    case isFalse => exact absurd h (Nat.not_lt_zero _)

/-- A run below the cap is followed by the other level. -/
theorem ne_of_runLength_lt {σ : Nat → Level} {l : Level} {q cap : Nat} (h : runLength σ l q cap < cap) :
    σ (q + runLength σ l q cap) ≠ l := by
  induction cap generalizing q with
  | zero => exact absurd h (Nat.not_lt_zero _)
  | succ cap ih =>
    unfold runLength at h ⊢
    split at h
    case isTrue hq =>
      rw [if_pos hq, show q + (runLength σ l (q + 1) cap + 1) = q + 1 + runLength σ l (q + 1) cap by omega]
      exact ih (Nat.lt_of_succ_lt_succ h)
    case isFalse hq =>
      rw [if_neg hq]
      exact hq

/-! ### Where a slot begins, and how many equal samples it sees -/

/-- The sample that slot k begins with: its edge, the first sample of run k, has ended the slot before. -/
def slotStart (σ : Nat → Level) (k : Nat) : Nat := runStart σ k + min 1 k

/-- The equal samples of slot k: those of run k but the edge that began it. -/
def slotCount (σ : Nat → Level) (k : Nat) : Nat := runOf σ k - min 1 k

/-- A slot times out at its 255th equal sample (R148). -/
theorem slotTimesOut_iff (σ : Nat → Level) (k : Nat) : slotTimesOut σ k = true ↔ 255 ≤ slotCount σ k := by
  unfold slotTimesOut slotCount
  split
  case isTrue hk =>
    subst hk
    simp
  case isFalse hk =>
    rw [decide_eq_true_iff]
    omega

theorem slotCount_le {σ : Nat → Level} {k : Nat} (h : slotTimesOut σ k = false) : slotCount σ k ≤ 254 := by
  have := (slotTimesOut_iff σ k).not.mp (by simp [h])
  omega

/-- A slot that does not time out has its run end below the cap. -/
theorem runOf_lt {σ : Nat → Level} {k : Nat} (h : slotTimesOut σ k = false) : runOf σ k < 256 := by
  have := slotCount_le h
  unfold slotCount at this
  omega

/-- The run of a slot that was begun by an edge is not empty. -/
theorem min_le_runOf {σ : Nat → Level} {k : Nat} (h : ∀ i < k, slotTimesOut σ i = false) :
    min 1 k ≤ runOf σ k := by
  cases k with
  | zero => exact Nat.zero_le _
  | succ k =>
    have hedge : σ (runStart σ (k + 1)) = levelOfRun (k + 1) :=
      eq_levelOfRun_succ (ne_of_runLength_lt (runOf_lt (h k k.lt_succ_self)))
    by_contra hzero
    have hrun : runOf σ (k + 1) = 0 := by omega
    have hne := ne_of_runLength_lt (hrun.trans_lt (by decide : 0 < 256))
    rw [← runOf, hrun] at hne
    exact hne hedge

/-- The equal samples of a slot have its level. -/
theorem sample_of_lt_slotCount {σ : Nat → Level} {k j : Nat} (h : j < slotCount σ k) :
    σ (slotStart σ k + j) = levelOfRun k := by
  unfold slotCount at h
  have hlt : min 1 k + j < runOf σ k := by omega
  rw [slotStart, Nat.add_assoc]
  exact eq_of_lt_runLength hlt

/-- Where a slot ends, the next begins one sample on. -/
theorem slotStart_succ {σ : Nat → Level} {k : Nat} (h : ∀ i < k, slotTimesOut σ i = false) :
    slotStart σ (k + 1) = slotStart σ k + (slotCount σ k + 1) := by
  have := min_le_runOf h
  have hrun : runStart σ (k + 1) = runStart σ k + runOf σ k := rfl
  unfold slotStart slotCount
  omega

/-- The sample after the equal ones of a slot that does not time out is the edge. -/
theorem sample_slotCount_ne {σ : Nat → Level} {k : Nat} (h : ∀ i < k, slotTimesOut σ i = false)
    (hk : slotTimesOut σ k = false) : σ (slotStart σ k + slotCount σ k) ≠ levelOfRun k := by
  have hpos := min_le_runOf h
  have hsum : slotStart σ k + slotCount σ k = runStart σ k + runOf σ k := by
    unfold slotStart slotCount
    omega
  rw [hsum]
  exact ne_of_runLength_lt (runOf_lt hk)

/-- Each slot takes at least one sample and at most 255. -/
theorem slotStart_bounds {σ : Nat → Level} {k : Nat} (h : ∀ i < k, slotTimesOut σ i = false) :
    k ≤ slotStart σ k ∧ slotStart σ k ≤ 255 * k := by
  induction k with
  | zero => exact ⟨Nat.zero_le _, le_rfl⟩
  | succ k ih =>
    have hlt : ∀ i < k, slotTimesOut σ i = false := fun i hi => h i (Nat.lt_succ_of_lt hi)
    have := ih hlt
    have := slotCount_le (h k k.lt_succ_self)
    rw [slotStart_succ hlt]
    omega

/-- T is at most 85, no slot before it times out, and below 85 it does itself (R178). -/
theorem firstTimeout_spec (σ : Nat → Level) : (∀ i < firstTimeout σ, slotTimesOut σ i = false) ∧
    (firstTimeout σ = 85 ∨ firstTimeout σ < 85 ∧ slotTimesOut σ (firstTimeout σ) = true) := by
  unfold firstTimeout
  cases hf : (List.range Config.nSlots).find? (slotTimesOut σ)
  case none =>
    rw [List.find?_range_eq_none] at hf
    simpa using hf
  case some k =>
    rw [List.find?_range_eq_some] at hf
    obtain ⟨hk, hmem, hlt⟩ := hf
    rw [List.mem_range] at hmem
    exact ⟨by simpa using hlt, .inr ⟨hmem, hk⟩⟩

/-! ### The bits of a stream (R166, R178) -/

theorem storedBits_eq (k : Nat) : storedBits k = min 40 (bitsBefore k) := rfl

/-- The data bits of the first k + 1 slots: a data slot but 84 adds the bit of its count. -/
theorem map_dataBit_succ (σ : Nat → Level) {k : Nat} (hk : k < 85) :
    (List.range (storedBits (k + 1))).map (dataBit σ) = (List.range (storedBits k)).map (dataBit σ) ++
      (if 4 ≤ k ∧ k % 2 = 0 ∧ k ≠ 84 then [decide (16 < slotCount σ k)] else []) := by
  split
  case isTrue hdata =>
    obtain ⟨h4, heven, h84⟩ := hdata
    have hbits := bitsBefore_succ_of_data ⟨h4, heven⟩
    have hval : 4 + 2 * bitsBefore k = k := by
      unfold bitsBefore
      split_ifs
      all_goals omega
    have hsucc : storedBits (k + 1) = bitsBefore k + 1 := by
      rw [storedBits_eq, hbits]
      omega
    have hstored : storedBits k = bitsBefore k := by
      rw [storedBits_eq]
      omega
    have hbit : dataBit σ (bitsBefore k) = decide (16 < slotCount σ k) := by
      rw [dataBit, hval, Bool.eq_iff_iff, decide_eq_true_iff, decide_eq_true_iff, slotCount]
      omega
    rw [hsucc, hstored, List.range_succ, List.map_append, List.map_singleton, hbit]
  case isFalse hdata =>
    have hsame : storedBits (k + 1) = storedBits k := by
      by_cases h84 : k = 84
      · rw [h84]
        rfl
      · rw [storedBits, bitsBefore_succ_of_not_data fun h => hdata ⟨h.1, h.2, h84⟩, storedBits]
    rw [hsame, List.append_nil]

/-- With 40 bits in, a byte of the buffer is the byte of the stream whose bits were captured. -/
theorem frameByte_eq_read {σ : Nat → Level} {m : Memory} {c : Nat} (hc : 40 ≤ c)
    (hbits : capturedBits m c = (List.range 40).map (dataBit σ)) {k : Nat} (hk : k < 5) :
    frameByte σ k = m.read k := by
  rw [capturedBits_of_full m hc, List.map_inj_left] at hbits
  have hbyte : (List.range 8).map (fun j => dataBit σ (8 * k + j))
      = (List.range 8).map fun j => (m.read k).getLsbD (8 - 1 - j) := by
    refine List.map_congr_left fun j hj => ?_
    rw [List.mem_range] at hj
    have hlt : 8 * k + j < 40 := by omega
    rw [← hbits _ (List.mem_range.mpr hlt), frame_getLsbD m hlt, show (8 * k + j) / 8 = k by omega,
      show (8 * k + j) % 8 = j by omega]
  rw [frameByte, hbyte, bitsValue_getLsbD, BitVec.ofNat_toNat, BitVec.setWidth_eq]

/-- The function of the stream, in the cursor and the bytes of a capture that holds the stream's bits. -/
theorem readFunction_of_capture {σ : Nat → Level} {m : Memory} {c : Nat} (e : ErrMode)
    (hc : c = bitsBefore (firstTimeout σ))
    (hbits : capturedBits m c = (List.range (storedBits (firstTimeout σ))).map (dataBit σ)) :
    readFunction e σ = if c < 40 then .err (shortKind e)
      else if (m.read 4).toNat = byteSum m % 256 then .ok (m.read 0) (m.read 2)
      else .err .checksumMismatch := by
  have hstored : storedBits (firstTimeout σ) = min 40 c := by rw [hc, storedBits_eq]
  rw [hstored] at hbits
  rw [readFunction, hstored]
  by_cases hlt : c < 40
  · rw [if_pos (show min 40 c < 40 by omega), if_pos hlt]
  · have hfull : 40 ≤ c := Nat.le_of_not_lt hlt
    rw [Nat.min_eq_left hfull] at hbits
    have hbyte := fun {k : Nat} => frameByte_eq_read hfull hbits (k := k)
    rw [if_neg (show ¬ min 40 c < 40 by omega), if_neg hlt, hbyte (by decide), hbyte (by decide), hbyte (by decide),
      hbyte (by decide), hbyte (by decide), byteSum]

/-! ### The sampler on a stream -/

/-- The sampler, started in u, stands at the beginning of slot k of the stream, slot 85 meaning that it has left
phase SAMPLE after slot 84. -/
structure AtSlot (u : State) (σ : Nat → Level) (k : Nat) (t : State) : Prop where
  run : Host.Core.run core (slotStart σ k) u = .next t
  inv : Inv t
  slot : t.slotIndex.toNat = k
  counter : t.counter = 0
  phase : t.phase = if k = 85 then .validate else .sample
  bits : capturedBits t.buf t.bitCursor.toNat = (List.range (storedBits k)).map (dataBit σ)

section
variable {u : State} {σ : Nat → Level} (hσ : ∀ j, (u.inputAt j).lineIn = σ j)
  (hr : ∀ j < 21676, (u.inputAt j).rst = false)

include hσ in
/-- At the beginning of a slot the equal samples to come are those of the stream. -/
theorem AtSlot.sample_eq {k : Nat} {t : State} (a : AtSlot u σ k t) {j : Nat} (hj : j < slotCount σ k) :
    (t.inputAt j).lineIn = t.lastLevel := by
  rw [(run_own a.run).2, hσ, sample_of_lt_slotCount hj, a.inv.levelParity, a.slot]

include hσ hr in
/-- A slot that does not time out leads to the next (R148). -/
theorem AtSlot.next {k : Nat} {t : State} (a : AtSlot u σ k t) (hk : k < 85)
    (hlt : ∀ i < k, slotTimesOut σ i = false) (hno : slotTimesOut σ k = false) :
    ∃ t', AtSlot u σ (k + 1) t' := by
  have hinput := (run_own a.run).2
  have hsucc := slotStart_succ hlt
  have hbound := (slotStart_bounds (k := k + 1) fun i hi =>
    (Nat.lt_succ_iff_lt_or_eq.mp hi).elim (hlt i) (· ▸ hno)).2
  have hp : t.phase = .sample := a.phase.trans (if_neg (by omega))
  have hedge : (t.inputAt (slotCount σ k)).lineIn ≠ t.lastLevel := by
    rw [hinput, hσ, a.inv.levelParity, a.slot]
    exact sample_slotCount_ne hlt hno
  have hrst : ∀ j ≤ slotCount σ k, (t.inputAt j).rst = false := by
    intro j hj
    rw [hinput]
    exact hr _ (by omega)
  obtain ⟨t', hrun, hslot, hcounter, -, -, hphase, hbits, -, -⟩ := slotEndsWithItsCount t (slotCount σ k) a.inv hp
    a.counter (slotCount_le hno) (fun j => a.sample_eq hσ) hedge hrst
  rw [a.slot] at hslot hphase hbits
  rw [a.bits, ← map_dataBit_succ σ hk] at hbits
  refine ⟨t', hsucc ▸ run_trans a.run hrun, a.inv.after_run hrun, hslot, hcounter, hphase.trans ?_, hbits⟩
  simp

include hσ hr in
/-- As long as no slot times out, the sampler comes to the next. -/
theorem AtSlot.exists_slot {s : State} (a : AtSlot u σ 0 s) {k : Nat} (hk : k ≤ 85)
    (hlt : ∀ i < k, slotTimesOut σ i = false) : ∃ t, AtSlot u σ k t := by
  induction k with
  | zero => exact ⟨s, a⟩
  | succ k ih =>
    have hlt' : ∀ i < k, slotTimesOut σ i = false := fun i hi => hlt i (Nat.lt_succ_of_lt hi)
    obtain ⟨t, ht⟩ := ih (by omega) hlt'
    exact ht.next hσ hr hk hlt' (hlt k k.lt_succ_self)

include hσ hr in
/-- A slot that times out leads to phase VALIDATE with the capture as it was (R142). -/
theorem AtSlot.timeout {k : Nat} {t : State} (a : AtSlot u σ k t) (hk : k < 85)
    (hlt : ∀ i < k, slotTimesOut σ i = false) (hout : slotTimesOut σ k = true) :
    ∃ v, Host.Core.run core (slotStart σ k + 255) u = .next v ∧ Inv v ∧ v.phase = .validate ∧
      v.slotIndex.toNat = k ∧ v.buf = t.buf ∧ v.bitCursor = t.bitCursor := by
  have hbound := (slotStart_bounds hlt).2
  have hp : t.phase = .sample := a.phase.trans (if_neg (by omega))
  have hcount := (slotTimesOut_iff σ k).mp hout
  have hrun := slotTimesOutAtTheCeiling t hp a.counter fun j hj => by
    refine ⟨a.sample_eq hσ (hj.trans_le hcount), ?_⟩
    rw [(run_own a.run).2]
    exact hr _ (by omega)
  exact ⟨_, run_trans a.run hrun, a.inv.after_run hrun, rfl, a.slot, rfl, rfl⟩

include hσ hr in
/-- The sampler leaves phase SAMPLE after 85 to 21 675 polls, at the slot and with the bits of the stream (R145,
R178, R234). -/
theorem AtSlot.exists_validate {s : State} (a : AtSlot u σ 0 s) :
    ∃ m v, 85 ≤ m ∧ m ≤ 21675 ∧ Host.Core.run core m u = .next v ∧ v.phase = .validate ∧
      v.bitCursor.toNat = bitsBefore (firstTimeout σ) ∧
      capturedBits v.buf v.bitCursor.toNat = (List.range (storedBits (firstTimeout σ))).map (dataBit σ) := by
  obtain ⟨hlt, hlast⟩ := firstTimeout_spec σ
  have hbounds := slotStart_bounds hlt
  rcases hlast with h85 | ⟨hk, hout⟩
  · obtain ⟨t, ht⟩ := a.exists_slot hσ hr h85.le hlt
    refine ⟨_, t, ?_, ?_, ht.run, ht.phase.trans (if_pos h85), ?_, ht.bits⟩
    · omega
    · omega
    · rw [ht.inv.cursorOfSlot, ht.slot]
  · obtain ⟨t, ht⟩ := a.exists_slot hσ hr hk.le hlt
    obtain ⟨v, hrun, hInv, hphase, hslot, hbuf, hcursor⟩ := ht.timeout hσ hr hk hlt hout
    refine ⟨_, v, ?_, ?_, hrun, hphase, ?_, ?_⟩
    · omega
    · omega
    · rw [hInv.cursorOfSlot, hslot]
    · rw [hbuf, hcursor, ht.bits]

end

/-! ### The read -/

/-- A tick of phase VALIDATE ends the read with the result of the stream whose bits were captured. -/
theorem step_validate {σ : Nat → Level} {v : State} (hr : v.inputs.rst = false) (hp : v.phase = .validate)
    (hcursor : v.bitCursor.toNat = bitsBefore (firstTimeout σ))
    (hbits : capturedBits v.buf v.bitCursor.toNat
      = (List.range (storedBits (firstTimeout σ))).map (dataBit σ)) :
    ∃ t, step v = .next t ∧ t.phase = .idle ∧ t.done = true ∧
      result t = some (readFunction v.params.errMode σ) := by
  obtain ⟨t, ht, hidle, hdone, -, -⟩ := verdictRule v hr hp
  obtain ⟨t', ht', hresult⟩ := resultOfARead v hr hp
  cases ht.symm.trans ht'
  exact ⟨t, ht, hidle, hdone, hresult.trans (by rw [readFunction_of_capture _ hcursor hbits])⟩

/-- Settles O37: the start sequence, the sampler on the stream of its samples, and the verdict. -/
theorem readIsAFunctionOfTheSamples : Obligations.ReadIsAFunctionOfTheSamples := by
  intro s h hp hstart hr
  have hticks : readTicks s.params = s.params.nWarmup + s.params.nTrigger + 3 + 21676 := by
    unfold readTicks
    omega
  have hsample := run_startTrace h hp hstart (fun j hj => hr j (by omega))
    (n := s.params.nWarmup + s.params.nTrigger + 3) (Nat.succ_pos _) le_rfl
  obtain ⟨hparams, hinputs⟩ := run_own hsample
  have hInv := h.after_run hsample
  rw [startTrace_sample] at hsample hparams hinputs hInv
  have hat : AtSlot _ (fun j => (s.inputAt (s.params.nWarmup + s.params.nTrigger + 3 + j)).lineIn) 0 _ :=
    { run := run_zero _, inv := hInv, slot := rfl, counter := rfl, phase := rfl, bits := rfl }
  have hrst := fun j (hj : j < 21676) =>
    (congrArg TickInputs.rst (hinputs j)).trans (hr _ (by omega))
  obtain ⟨m, v, hlo, hhi, hrun, hphase, hcursor, hbits⟩ :=
    hat.exists_validate (fun j => congrArg TickInputs.lineIn (hinputs j)) hrst
  obtain ⟨hvparams, hvinputs⟩ := run_own hrun
  have hvrst : v.inputs.rst = false := (congrArg TickInputs.rst (hvinputs 0)).trans (hrst m (by omega))
  obtain ⟨t, ht, hidle, hdone, hresult⟩ := step_validate hvrst hphase hcursor hbits
  refine ⟨_, t, ?_, ?_, run_trans hsample (run_trans hrun (run_one ht)), hidle, hdone, ?_⟩
  · omega
  · omega
  · rw [hresult, hvparams, hparams]

end Sys2Proof.Machine
end
